-- ==== Sys2Proof/Word.lean ====
section
/-! DEFINITION. The word types of the hardware (R6, R8: 8-bit data, 16-bit addresses). -/

namespace Sys2Proof

/-- A data byte (R6, R60). -/
abbrev Byte := BitVec 8

/-- A 16-bit address or any other 16-bit quantity (R6, R8). -/
abbrev Addr := BitVec 16

end Sys2Proof
end

