-- ==== Sys2Proof/Config.lean ====
section
/-! DEFINITION. What the spec leaves to the implementation: the peripheral `PERIPH` (R7, R67, R345) as free values.
Nothing in Lean can compute a value of the two constants below. -/

namespace Sys2Proof

/-- One access of the peripheral to the cartridge's CHR side (R90, R91, R345). -/
inductive CartAccess where
  /-- `CartReadPpu(addr)` (R90) -/
  | read (addr : Addr)
  /-- `CartWritePpu(addr, v)` (R91) -/
  | write (addr : Addr) (v : Byte)
deriving DecidableEq, Repr

/-- What the peripheral has seen of this hardware (R345); the record of R67 "a write is recorded as an event". -/
inductive PeriphEvent where
  /-- its `clock()` ran (R100) -/
  | clocked
  /-- its `read_cpu(i)` was called and answered `v` (R64, R67) -/
  | cpuRead (i : BitVec 3) (v : Byte)
  /-- its `write_cpu(i, v)` was called (R65, R67) -/
  | cpuWrite (i : BitVec 3) (v : Byte)
  /-- it called `CartReadPpu(addr)`; `none` is "unclaimed" (R90) -/
  | cartRead (addr : Addr) (answer : Option Byte)
  /-- it called `CartWritePpu(addr, v)` (R91) -/
  | cartWrite (addr : Addr) (v : Byte) (claimed : Bool)
deriving DecidableEq, Repr

/-- FREE VALUE (log 6, U6): the byte `read_cpu(i)` answers. It may depend on how many answers were drawn, on everything
the peripheral has seen so far, and on the register. -/
opaque Config.periphAnswer : Nat → List PeriphEvent → BitVec 3 → Byte

/-- FREE VALUE (log 7, R345): the peripheral-side cartridge accesses that one `clock()` of the peripheral performs, in
order. It may depend on how many values were drawn, on everything the peripheral has seen, and on the CHR contents. -/
opaque Config.periphAccesses : Nat → List PeriphEvent → List Host.Cell → List CartAccess

end Sys2Proof
end

