-- ==== Sys2Proof/Syntax.lean ====
section
/-! DEFINITION. The instruction set as syntax (R121, R122, R125, R127): the thirteen addressing modes, the operand forms
and `Instr`, one constructor for each mnemonic of the opcode table. A row of the table is a constructor with one operand
form (or, for NOP and XXX, with one opcode byte): log 1. -/

namespace Sys2Proof

/-- The thirteen formats of R122. -/
inductive Mode where
  | imp | acc | imm | zp0 | zpx | zpy | rel | abs | abx | aby | ind | izx | izy
deriving DecidableEq, Repr

/-- The 56 named operations and the fallback XXX (R121): the mnemonics of the opcode table. -/
inductive Op where
  | adc | and | asl | bcc | bcs | beq | bit | bmi | bne | bpl | brk | bvc | bvs | clc | cld | cli | clv
  | cmp | cpx | cpy | dec | dex | dey | eor | inc | inx | iny | jmp | jsr | lda | ldx | ldy | lsr | nop
  | ora | pha | php | pla | plp | rol | ror | rti | rts | sbc | sec | sed | sei | sta | stx | sty | tax
  | tay | tsx | txa | txs | tya | xxx
deriving DecidableEq, Repr

/-- An operand as the instruction's bytes give it (R122, R123). The 16-bit forms hold `{byte2, byte1}`. -/
inductive Operand where
  /-- ACC: the accumulator, no operand byte (R161) -/
  | acc
  /-- IMM: `imm8` (R162) -/
  | imm (v : Byte)
  /-- ZP0: `zp8` (R163) -/
  | zp0 (zp : Byte)
  /-- ZPX: `zp8`, indexed by X (R164) -/
  | zpx (zp : Byte)
  /-- ZPY: `zp8`, indexed by Y (R165) -/
  | zpy (zp : Byte)
  /-- ABS: `abs16` (R167) -/
  | abs (base : Addr)
  /-- ABX: `abs16`, indexed by X (R168) -/
  | abx (base : Addr)
  /-- ABY: `abs16`, indexed by Y (R169) -/
  | aby (base : Addr)
  /-- IND: `ptr16` (R170) -/
  | ind (ptr : Addr)
  /-- IZX: `zp8`, a pointer indexed by X (R171) -/
  | izx (zp : Byte)
  /-- IZY: `zp8`, a pointer whose target is indexed by Y (R172) -/
  | izy (zp : Byte)
deriving DecidableEq, Repr

/-- The addressing mode of an operand form (R122). -/
def Operand.mode : Operand → Mode
  | .acc => .acc | .imm _ => .imm | .zp0 _ => .zp0 | .zpx _ => .zpx | .zpy _ => .zpy | .abs _ => .abs
  | .abx _ => .abx | .aby _ => .aby | .ind _ => .ind | .izx _ => .izx | .izy _ => .izy

/-- The instructions. `o` is an operand form, `rel8` a branch's signed offset byte (R166), `target` the operand of JSR
(R266), `opcode` the opcode byte of a NOP or XXX row (R307 to R309). -/
inductive Instr where
  | adc (o : Operand)
  | and (o : Operand)
  | asl (o : Operand)
  | bcc (rel8 : Byte)
  | bcs (rel8 : Byte)
  | beq (rel8 : Byte)
  | bit (o : Operand)
  | bmi (rel8 : Byte)
  | bne (rel8 : Byte)
  | bpl (rel8 : Byte)
  | brk
  | bvc (rel8 : Byte)
  | bvs (rel8 : Byte)
  | clc
  | cld
  | cli
  | clv
  | cmp (o : Operand)
  | cpx (o : Operand)
  | cpy (o : Operand)
  | dec (o : Operand)
  | dex
  | dey
  | eor (o : Operand)
  | inc (o : Operand)
  | inx
  | iny
  | jmp (o : Operand)
  | jsr (target : Addr)
  | lda (o : Operand)
  | ldx (o : Operand)
  | ldy (o : Operand)
  | lsr (o : Operand)
  | nop (opcode : Byte)
  | ora (o : Operand)
  | pha
  | php
  | pla
  | plp
  | rol (o : Operand)
  | ror (o : Operand)
  | rti
  | rts
  | sbc (o : Operand)
  | sec
  | sed
  | sei
  | sta (o : Operand)
  | stx (o : Operand)
  | sty (o : Operand)
  | tax
  | tay
  | tsx
  | txa
  | txs
  | tya
  | xxx (opcode : Byte)
deriving DecidableEq, Repr

/-- The mnemonic of an instruction. -/
def Instr.op : Instr → Op
  | .adc _ => .adc | .and _ => .and | .asl _ => .asl | .bcc _ => .bcc | .bcs _ => .bcs | .beq _ => .beq
  | .bit _ => .bit | .bmi _ => .bmi | .bne _ => .bne | .bpl _ => .bpl | .brk => .brk | .bvc _ => .bvc
  | .bvs _ => .bvs | .clc => .clc | .cld => .cld | .cli => .cli | .clv => .clv | .cmp _ => .cmp
  | .cpx _ => .cpx | .cpy _ => .cpy | .dec _ => .dec | .dex => .dex | .dey => .dey | .eor _ => .eor
  | .inc _ => .inc | .inx => .inx | .iny => .iny | .jmp _ => .jmp | .jsr _ => .jsr | .lda _ => .lda
  | .ldx _ => .ldx | .ldy _ => .ldy | .lsr _ => .lsr | .nop _ => .nop | .ora _ => .ora | .pha => .pha
  | .php => .php | .pla => .pla | .plp => .plp | .rol _ => .rol | .ror _ => .ror | .rti => .rti
  | .rts => .rts | .sbc _ => .sbc | .sec => .sec | .sed => .sed | .sei => .sei | .sta _ => .sta
  | .stx _ => .stx | .sty _ => .sty | .tax => .tax | .tay => .tay | .tsx => .tsx | .txa => .txa
  | .txs => .txs | .tya => .tya | .xxx _ => .xxx

/-- The addressing mode of an instruction (R121): IMP where it has no operand, REL for the branches, ABS for JSR. -/
def Instr.mode : Instr → Mode
  | .adc o => o.mode | .and o => o.mode | .asl o => o.mode | .bcc _ => .rel | .bcs _ => .rel | .beq _ => .rel
  | .bit o => o.mode | .bmi _ => .rel | .bne _ => .rel | .bpl _ => .rel | .brk => .imp | .bvc _ => .rel
  | .bvs _ => .rel | .clc => .imp | .cld => .imp | .cli => .imp | .clv => .imp | .cmp o => o.mode
  | .cpx o => o.mode | .cpy o => o.mode | .dec o => o.mode | .dex => .imp | .dey => .imp | .eor o => o.mode
  | .inc o => o.mode | .inx => .imp | .iny => .imp | .jmp o => o.mode | .jsr _ => .abs | .lda o => o.mode
  | .ldx o => o.mode | .ldy o => o.mode | .lsr o => o.mode | .nop _ => .imp | .ora o => o.mode | .pha => .imp
  | .php => .imp | .pla => .imp | .plp => .imp | .rol o => o.mode | .ror o => o.mode | .rti => .imp
  | .rts => .imp | .sbc o => o.mode | .sec => .imp | .sed => .imp | .sei => .imp | .sta o => o.mode
  | .stx o => o.mode | .sty o => o.mode | .tax => .imp | .tay => .imp | .tsx => .imp | .txa => .imp
  | .txs => .imp | .tya => .imp | .xxx _ => .imp

end Sys2Proof
end

