-- ==== Sys2Proof/Machine/State.lean ====
section
/-! DEFINITION. The state of the hardware as plain data (R18, R20 to R41), the outcomes' reasons, and the state after reset. -/

namespace Sys2Proof.Machine

/-- Memory contents: (address, byte) pairs, addresses strictly rising, no entry equal to `unlistedByte`. -/
abbrev Memory := List Host.Cell

/-- What a byte that a memory does not list reads as (log 4). -/
def unlistedByte : Byte := 0x00

/-- The eight flags of the status byte (R25). -/
inductive Flag where
  | c | z | i | d | b | u | v | n
deriving DecidableEq, Repr

/-- The 16-byte header of a cartridge image (R80, R37). -/
structure Header where
  /-- bytes 0 to 3, "not validated by this core" -/
  signature : Vector Byte 4
  /-- byte 4, the count of 16 KiB PRG banks (`prg_banks`) -/
  prgChunks : Byte
  /-- byte 5, the count of 8 KiB CHR banks (`chr_banks`); 0 means CHR-RAM -/
  chrChunks : Byte
  /-- byte 6: bit 2 is the trainer bit, the high nibble is the mapper id's low nibble -/
  mapper1 : Byte
  /-- byte 7: the high nibble is the mapper id's high nibble -/
  mapper2 : Byte
  /-- byte 8, "informational, unused by NROM" -/
  prgRamSize : Byte
  /-- bytes 9 and 10, "informational" -/
  tvSystem : Vector Byte 2
  /-- bytes 11 to 15, "ignored" -/
  reserved : Vector Byte 5
deriving DecidableEq, Repr

/-- The cartridge (R37): header metadata, resolved mapper id, validity flag, PRG and CHR memory. An invalid cartridge
stands for an absent one too (R92, log 15). -/
structure Cartridge where
  header : Header
  mapperId : Byte
  valid : Bool
  prg : Memory
  chr : Memory
deriving DecidableEq, Repr

/-- The calls by which the host drives the hardware (R335, R73, R348). -/
inductive HostCall where
  /-- bus `clock()`: one system clock tick (R100) -/
  | clock
  /-- bus `reset()` (R101) -/
  | busReset
  /-- CPU `reset()` (R324) -/
  | cpuReset
  /-- CPU `irq()` (R326) -/
  | irq
  /-- CPU `nmi()` (R327) -/
  | nmi
  /-- bus `read(addr)` (R73) -/
  | read (addr : Addr)
  /-- bus `write(addr, v)` (R73) -/
  | write (addr : Addr) (v : Byte)
  /-- `disassemble(start, stop)` (R348), whose reads go through the bus -/
  | disassemble (start stop : Addr)
deriving DecidableEq, Repr

/-- The state of the hardware. -/
structure State where
  /-- the accumulator A (R21) -/
  a : Byte
  /-- the index register X (R22) -/
  x : Byte
  /-- the index register Y (R22) -/
  y : Byte
  /-- the stack pointer SP (R23) -/
  sp : Byte
  /-- the status byte P (R25) -/
  p : Byte
  /-- the program counter PC (R24) -/
  pc : Addr
  /-- the opcode latch IR (R30) -/
  ir : Byte
  /-- the effective address latch EA (R31) -/
  ea : Addr
  /-- the branch offset latch REL (R31) -/
  rel : Addr
  /-- the operand latch M (R32) -/
  m : Byte
  /-- the cycle counter CYC (R33) -/
  cyc : Nat
  /-- the system clock counter SYSCLK (R33) -/
  sysclk : Nat
  /-- the 2 048 bytes of RAM, by index (R36) -/
  ram : Memory
  /-- the cartridge (R37) -/
  cart : Cartridge
  /-- the calls the host has still to make; when there are none it makes system ticks (log 2) -/
  host : List HostCall
  /-- the model's own: how many values of the peripheral oracle were drawn (log 6) -/
  draws : Nat
  /-- the model's own: what the peripheral has seen, newest first (R67, log 6) -/
  periphLog : List PeriphEvent
deriving DecidableEq, Repr

/-- Why the machine stops with a fault: never. "There are no faults" (R321). -/
inductive Fault where
deriving DecidableEq, Repr

/-- Why a step has no meaning. -/
inductive Refusal where
  /-- raised by a refused arm of `exec`: the instruction of this mnemonic has no meaning yet (safe). No arm is refused. -/
  | notModelled (mnemonic : String)
  /-- raised by every meaning on an `Instr` term that no opcode byte encodes, so not an instruction of the hardware (safe);
  no step raises it, since the decoder yields well-formed instructions only -/
  | illFormed
deriving DecidableEq, Repr

/-- What a step answers. -/
abbrev Result := Host.Outcome State Fault Refusal

/-- A blank cartridge: a valid one-bank NROM image (R83, R87) whose PRG and CHR bytes are all 0x00 (log 3, DESIGN CHOICE).
It holds no program. -/
def Cartridge.blank : Cartridge where
  header :=
    { signature := #v[0x4E, 0x45, 0x53, 0x1A], prgChunks := 0x01, chrChunks := 0x01, mapper1 := 0x00, mapper2 := 0x00,
      prgRamSize := 0x00, tvSystem := #v[0x00, 0x00], reserved := #v[0x00, 0x00, 0x00, 0x00, 0x00] }
  mapperId := 0x00
  valid := true
  prg := []
  chr := []

/-- The state right after a bus `reset()` (R41, R365) with the blank cartridge inserted and RAM all 0x00 (log 3, log 4): the
registers, counters and latches as R41 has them, PC the reset vector, which the blank cartridge holds as 0x0000. -/
def State.reset : State where
  a := 0x00
  x := 0x00
  y := 0x00
  sp := 0xFD
  p := 0x20
  pc := 0x0000
  ir := 0x00
  ea := 0x0000
  rel := 0x0000
  m := 0x00
  cyc := 8
  sysclk := 0
  ram := []
  cart := Cartridge.blank
  host := []
  draws := 0
  periphLog := []

end Sys2Proof.Machine
end

