-- ==== Sys2Proof/Machine/Flags.lean ====
section
/-! DEFINITION. The status byte's flags and every flag computation of the spec (R12, R25, R190, R191, R203, R214, R229). -/

namespace Sys2Proof.Machine

/-- The bit position of a flag in P (R25). -/
def Flag.index : Flag → Nat
  | .c => 0
  | .z => 1
  | .i => 2
  | .d => 3
  | .b => 4
  | .u => 5
  | .v => 6
  | .n => 7

/-- The mask of a flag (R25). -/
def Flag.mask (f : Flag) : Byte := 1#8 <<< f.index

/-- `P.f` read from a status byte (R9). -/
def getFlag (p : Byte) (f : Flag) : Bool := p.getLsbD f.index

/-- A status byte after `P.f <- v` (R9). -/
def putFlag (p : Byte) (f : Flag) (v : Bool) : Byte := if v then p ||| f.mask else p &&& ~~~f.mask

/-- The bit 7 of a byte, `v[7]`. -/
def bit7 (v : Byte) : Bool := v.getLsbD 7

/-- `setZN(v)` (R12). -/
def setZN (p v : Byte) : Byte := putFlag (putFlag p .z (v = 0)) .n (bit7 v)

/-- The 16-bit intermediate sum `t` of ADC (R190): `zext_16(A) + zext_16(m) + zext_16(P.C)`. -/
def sumWithCarry (a m : Byte) (carry : Bool) : Addr :=
  a.setWidth 16 + m.setWidth 16 + (if carry then 1#16 else 0#16)

/-- The 8-bit result of ADC, `t[7:0]` (R190). -/
def addResult (a m : Byte) (carry : Bool) : Byte := (sumWithCarry a m carry).setWidth 8

/-- The carry out of ADC, `t[8]` (R190). -/
def addCarry (a m : Byte) (carry : Bool) : Bool := (sumWithCarry a m carry).getLsbD 8

/-- The overflow of ADC (R190): the sign-agreement formula `(~(A ^ m) & (A ^ r) & 0x80) != 0`. -/
def addOverflow (a m : Byte) (carry : Bool) : Bool :=
  decide ((~~~(a ^^^ m)) &&& (a ^^^ addResult a m carry) &&& 0x80#8 ≠ 0#8)

/-- The status byte after ADC (R190): C, Z, V, N. -/
def addFlags (p a m : Byte) : Byte :=
  let carry := getFlag p .c
  let r := addResult a m carry
  putFlag (putFlag (putFlag (putFlag p .c (addCarry a m carry)) .z (r = 0)) .v (addOverflow a m carry)) .n (bit7 r)

/-- The operand SBC adds, `m ^ 0xFF` (R191). -/
def complemented (m : Byte) : Byte := m ^^^ 0xFF#8

/-- The status byte after BIT (R203): Z from `A & m`, N and V from the operand. -/
def bitFlags (p a m : Byte) : Byte :=
  putFlag (putFlag (putFlag p .z (a &&& m = 0)) .n (m.getLsbD 7)) .v (m.getLsbD 6)

/-- The status byte after a shift or rotate (R214): C the bit shifted out, Z and N from the result. -/
def shiftFlags (p r : Byte) (out : Bool) : Byte := setZN (putFlag p .c out) r

/-- The status byte after a compare (R229): C is `reg >= m` unsigned, Z and N from the difference. -/
def compareFlags (p reg m : Byte) : Byte :=
  putFlag (putFlag (putFlag p .c (m ≤ reg)) .z (reg - m = 0)) .n (bit7 (reg - m))

/-- The status byte that an irq or nmi entry pushes and leaves before setting I (R325): B cleared, U set. -/
def entryStatus (p : Byte) : Byte := putFlag (putFlag p .b false) .u true

end Sys2Proof.Machine
end

