-- ==== Sys2Proof/WellFormed.lean ====
section
/-! DEFINITION. Which terms of `Instr` are instructions: those that some opcode byte encodes (R125, R127 and the encoding
tables of R190 to R309). -/

namespace Sys2Proof

/-- The addressing modes each mnemonic has an opcode byte for: the encoding tables that head the instruction rules. -/
def Op.modes : Op → List Mode
  | .adc | .sbc | .and | .ora | .eor | .cmp | .lda => [.imm, .zp0, .zpx, .abs, .abx, .aby, .izx, .izy]
  | .sta => [.zp0, .zpx, .abs, .abx, .aby, .izx, .izy]
  | .bit => [.zp0, .abs]
  | .asl | .lsr | .rol | .ror => [.acc, .zp0, .zpx, .abs, .abx]
  | .cpx | .cpy => [.imm, .zp0, .abs]
  | .inc | .dec => [.zp0, .zpx, .abs, .abx]
  | .bcc | .bcs | .beq | .bne | .bmi | .bpl | .bvc | .bvs => [.rel]
  | .jmp => [.abs, .ind]
  | .jsr => [.abs]
  | .ldx => [.imm, .zp0, .zpy, .abs, .aby]
  | .ldy => [.imm, .zp0, .zpx, .abs, .abx]
  | .stx => [.zp0, .zpy, .abs]
  | .sty => [.zp0, .zpx, .abs]
  | .brk | .clc | .cld | .cli | .clv | .dex | .dey | .inx | .iny | .nop | .pha | .php | .pla | .plp | .rti
  | .rts | .sec | .sed | .sei | .tax | .tay | .tsx | .txa | .txs | .tya | .xxx => [.imp]

/-- The 28 undocumented NOP bytes of R127 and the documented one, 0xEA (R307). -/
def nopOpcodes : List Byte :=
  [0x04, 0x0C, 0x14, 0x1A, 0x1C, 0x34, 0x3A, 0x3C, 0x44, 0x54, 0x5A, 0x5C, 0x64, 0x74, 0x7A, 0x7C] ++
  [0x80, 0x82, 0x89, 0x9C, 0xC2, 0xD4, 0xDA, 0xDC, 0xE2, 0xF4, 0xFA, 0xFC, 0xEA]

/-- The 77 XXX bytes of R127: every byte whose two low bits are 11, twelve of the x2 column, and 0x9E. -/
def isXxxOpcode (b : Byte) : Bool :=
  b &&& 0x03 == 0x03 ||
  [0x02, 0x12, 0x22, 0x32, 0x42, 0x52, 0x62, 0x72, 0x92, 0xB2, 0xD2, 0xF2, 0x9E].contains b

/-- The check: the instruction has this addressing mode, and a NOP or XXX carries a byte of its kind. -/
def Instr.wf (i : Instr) : Bool :=
  i.op.modes.contains i.mode &&
  match i with
  | .nop b => nopOpcodes.contains b
  | .xxx b => isXxxOpcode b
  | _ => true

end Sys2Proof
end

