-- ==== Sys2Proof/Decode.lean ====
section
/-! DEFINITION. Decoding (R120 to R129), from the opcode matrix of R125, and after it the encoder, from the encoding tables
that head the instruction rules R190 to R309. The two tables are written down apart, so that the round trip compares them. -/

namespace Sys2Proof

/-- The low byte of a 16-bit quantity, `a[7:0]` (R8). -/
def Addr.low (a : Addr) : Byte := a.extractLsb' 0 8

/-- The high byte of a 16-bit quantity, `a[15:8]`: the page of an address (R8, R174). -/
def Addr.high (a : Addr) : Byte := a.extractLsb' 8 8

/-- `{hi, lo}` (R8, R61): the 16-bit quantity with these bytes. -/
def Addr.ofBytes (lo hi : Byte) : Addr := hi ++ lo

/-- An instruction descriptor (R121): mnemonic (which is the operation), addressing mode, base cycle count. -/
structure Descriptor where
  op : Op
  mode : Mode
  base : Nat
deriving DecidableEq, Repr

/-- Opcode bytes 0x00 to 0x0F. -/
def opcodeRow0 : List Descriptor :=
  [ ⟨.brk, .imp, 7⟩, ⟨.ora, .izx, 6⟩, ⟨.xxx, .imp, 2⟩, ⟨.xxx, .imp, 8⟩,
    ⟨.nop, .imp, 3⟩, ⟨.ora, .zp0, 3⟩, ⟨.asl, .zp0, 5⟩, ⟨.xxx, .imp, 5⟩,
    ⟨.php, .imp, 3⟩, ⟨.ora, .imm, 2⟩, ⟨.asl, .acc, 2⟩, ⟨.xxx, .imp, 2⟩,
    ⟨.nop, .imp, 4⟩, ⟨.ora, .abs, 4⟩, ⟨.asl, .abs, 6⟩, ⟨.xxx, .imp, 6⟩ ]

/-- Opcode bytes 0x10 to 0x1F. -/
def opcodeRow1 : List Descriptor :=
  [ ⟨.bpl, .rel, 2⟩, ⟨.ora, .izy, 5⟩, ⟨.xxx, .imp, 2⟩, ⟨.xxx, .imp, 8⟩,
    ⟨.nop, .imp, 4⟩, ⟨.ora, .zpx, 4⟩, ⟨.asl, .zpx, 6⟩, ⟨.xxx, .imp, 6⟩,
    ⟨.clc, .imp, 2⟩, ⟨.ora, .aby, 4⟩, ⟨.nop, .imp, 2⟩, ⟨.xxx, .imp, 7⟩,
    ⟨.nop, .imp, 4⟩, ⟨.ora, .abx, 4⟩, ⟨.asl, .abx, 7⟩, ⟨.xxx, .imp, 7⟩ ]

/-- Opcode bytes 0x20 to 0x2F. -/
def opcodeRow2 : List Descriptor :=
  [ ⟨.jsr, .abs, 6⟩, ⟨.and, .izx, 6⟩, ⟨.xxx, .imp, 2⟩, ⟨.xxx, .imp, 8⟩,
    ⟨.bit, .zp0, 3⟩, ⟨.and, .zp0, 3⟩, ⟨.rol, .zp0, 5⟩, ⟨.xxx, .imp, 5⟩,
    ⟨.plp, .imp, 4⟩, ⟨.and, .imm, 2⟩, ⟨.rol, .acc, 2⟩, ⟨.xxx, .imp, 2⟩,
    ⟨.bit, .abs, 4⟩, ⟨.and, .abs, 4⟩, ⟨.rol, .abs, 6⟩, ⟨.xxx, .imp, 6⟩ ]

/-- Opcode bytes 0x30 to 0x3F. -/
def opcodeRow3 : List Descriptor :=
  [ ⟨.bmi, .rel, 2⟩, ⟨.and, .izy, 5⟩, ⟨.xxx, .imp, 2⟩, ⟨.xxx, .imp, 8⟩,
    ⟨.nop, .imp, 4⟩, ⟨.and, .zpx, 4⟩, ⟨.rol, .zpx, 6⟩, ⟨.xxx, .imp, 6⟩,
    ⟨.sec, .imp, 2⟩, ⟨.and, .aby, 4⟩, ⟨.nop, .imp, 2⟩, ⟨.xxx, .imp, 7⟩,
    ⟨.nop, .imp, 4⟩, ⟨.and, .abx, 4⟩, ⟨.rol, .abx, 7⟩, ⟨.xxx, .imp, 7⟩ ]

/-- Opcode bytes 0x40 to 0x4F. -/
def opcodeRow4 : List Descriptor :=
  [ ⟨.rti, .imp, 6⟩, ⟨.eor, .izx, 6⟩, ⟨.xxx, .imp, 2⟩, ⟨.xxx, .imp, 8⟩,
    ⟨.nop, .imp, 3⟩, ⟨.eor, .zp0, 3⟩, ⟨.lsr, .zp0, 5⟩, ⟨.xxx, .imp, 5⟩,
    ⟨.pha, .imp, 3⟩, ⟨.eor, .imm, 2⟩, ⟨.lsr, .acc, 2⟩, ⟨.xxx, .imp, 2⟩,
    ⟨.jmp, .abs, 3⟩, ⟨.eor, .abs, 4⟩, ⟨.lsr, .abs, 6⟩, ⟨.xxx, .imp, 6⟩ ]

/-- Opcode bytes 0x50 to 0x5F. -/
def opcodeRow5 : List Descriptor :=
  [ ⟨.bvc, .rel, 2⟩, ⟨.eor, .izy, 5⟩, ⟨.xxx, .imp, 2⟩, ⟨.xxx, .imp, 8⟩,
    ⟨.nop, .imp, 4⟩, ⟨.eor, .zpx, 4⟩, ⟨.lsr, .zpx, 6⟩, ⟨.xxx, .imp, 6⟩,
    ⟨.cli, .imp, 2⟩, ⟨.eor, .aby, 4⟩, ⟨.nop, .imp, 2⟩, ⟨.xxx, .imp, 7⟩,
    ⟨.nop, .imp, 4⟩, ⟨.eor, .abx, 4⟩, ⟨.lsr, .abx, 7⟩, ⟨.xxx, .imp, 7⟩ ]

/-- Opcode bytes 0x60 to 0x6F. -/
def opcodeRow6 : List Descriptor :=
  [ ⟨.rts, .imp, 6⟩, ⟨.adc, .izx, 6⟩, ⟨.xxx, .imp, 2⟩, ⟨.xxx, .imp, 8⟩,
    ⟨.nop, .imp, 3⟩, ⟨.adc, .zp0, 3⟩, ⟨.ror, .zp0, 5⟩, ⟨.xxx, .imp, 5⟩,
    ⟨.pla, .imp, 4⟩, ⟨.adc, .imm, 2⟩, ⟨.ror, .acc, 2⟩, ⟨.xxx, .imp, 2⟩,
    ⟨.jmp, .ind, 5⟩, ⟨.adc, .abs, 4⟩, ⟨.ror, .abs, 6⟩, ⟨.xxx, .imp, 6⟩ ]

/-- Opcode bytes 0x70 to 0x7F. -/
def opcodeRow7 : List Descriptor :=
  [ ⟨.bvs, .rel, 2⟩, ⟨.adc, .izy, 5⟩, ⟨.xxx, .imp, 2⟩, ⟨.xxx, .imp, 8⟩,
    ⟨.nop, .imp, 4⟩, ⟨.adc, .zpx, 4⟩, ⟨.ror, .zpx, 6⟩, ⟨.xxx, .imp, 6⟩,
    ⟨.sei, .imp, 2⟩, ⟨.adc, .aby, 4⟩, ⟨.nop, .imp, 2⟩, ⟨.xxx, .imp, 7⟩,
    ⟨.nop, .imp, 4⟩, ⟨.adc, .abx, 4⟩, ⟨.ror, .abx, 7⟩, ⟨.xxx, .imp, 7⟩ ]

/-- Opcode bytes 0x80 to 0x8F. -/
def opcodeRow8 : List Descriptor :=
  [ ⟨.nop, .imp, 2⟩, ⟨.sta, .izx, 6⟩, ⟨.nop, .imp, 2⟩, ⟨.xxx, .imp, 6⟩,
    ⟨.sty, .zp0, 3⟩, ⟨.sta, .zp0, 3⟩, ⟨.stx, .zp0, 3⟩, ⟨.xxx, .imp, 3⟩,
    ⟨.dey, .imp, 2⟩, ⟨.nop, .imp, 2⟩, ⟨.txa, .imp, 2⟩, ⟨.xxx, .imp, 2⟩,
    ⟨.sty, .abs, 4⟩, ⟨.sta, .abs, 4⟩, ⟨.stx, .abs, 4⟩, ⟨.xxx, .imp, 4⟩ ]

/-- Opcode bytes 0x90 to 0x9F. -/
def opcodeRow9 : List Descriptor :=
  [ ⟨.bcc, .rel, 2⟩, ⟨.sta, .izy, 6⟩, ⟨.xxx, .imp, 2⟩, ⟨.xxx, .imp, 6⟩,
    ⟨.sty, .zpx, 4⟩, ⟨.sta, .zpx, 4⟩, ⟨.stx, .zpy, 4⟩, ⟨.xxx, .imp, 4⟩,
    ⟨.tya, .imp, 2⟩, ⟨.sta, .aby, 5⟩, ⟨.txs, .imp, 2⟩, ⟨.xxx, .imp, 5⟩,
    ⟨.nop, .imp, 5⟩, ⟨.sta, .abx, 5⟩, ⟨.xxx, .imp, 5⟩, ⟨.xxx, .imp, 5⟩ ]

/-- Opcode bytes 0xA0 to 0xAF. -/
def opcodeRowA : List Descriptor :=
  [ ⟨.ldy, .imm, 2⟩, ⟨.lda, .izx, 6⟩, ⟨.ldx, .imm, 2⟩, ⟨.xxx, .imp, 6⟩,
    ⟨.ldy, .zp0, 3⟩, ⟨.lda, .zp0, 3⟩, ⟨.ldx, .zp0, 3⟩, ⟨.xxx, .imp, 3⟩,
    ⟨.tay, .imp, 2⟩, ⟨.lda, .imm, 2⟩, ⟨.tax, .imp, 2⟩, ⟨.xxx, .imp, 2⟩,
    ⟨.ldy, .abs, 4⟩, ⟨.lda, .abs, 4⟩, ⟨.ldx, .abs, 4⟩, ⟨.xxx, .imp, 4⟩ ]

/-- Opcode bytes 0xB0 to 0xBF. -/
def opcodeRowB : List Descriptor :=
  [ ⟨.bcs, .rel, 2⟩, ⟨.lda, .izy, 5⟩, ⟨.xxx, .imp, 2⟩, ⟨.xxx, .imp, 5⟩,
    ⟨.ldy, .zpx, 4⟩, ⟨.lda, .zpx, 4⟩, ⟨.ldx, .zpy, 4⟩, ⟨.xxx, .imp, 4⟩,
    ⟨.clv, .imp, 2⟩, ⟨.lda, .aby, 4⟩, ⟨.tsx, .imp, 2⟩, ⟨.xxx, .imp, 4⟩,
    ⟨.ldy, .abx, 4⟩, ⟨.lda, .abx, 4⟩, ⟨.ldx, .aby, 4⟩, ⟨.xxx, .imp, 4⟩ ]

/-- Opcode bytes 0xC0 to 0xCF. -/
def opcodeRowC : List Descriptor :=
  [ ⟨.cpy, .imm, 2⟩, ⟨.cmp, .izx, 6⟩, ⟨.nop, .imp, 2⟩, ⟨.xxx, .imp, 8⟩,
    ⟨.cpy, .zp0, 3⟩, ⟨.cmp, .zp0, 3⟩, ⟨.dec, .zp0, 5⟩, ⟨.xxx, .imp, 5⟩,
    ⟨.iny, .imp, 2⟩, ⟨.cmp, .imm, 2⟩, ⟨.dex, .imp, 2⟩, ⟨.xxx, .imp, 2⟩,
    ⟨.cpy, .abs, 4⟩, ⟨.cmp, .abs, 4⟩, ⟨.dec, .abs, 6⟩, ⟨.xxx, .imp, 6⟩ ]

/-- Opcode bytes 0xD0 to 0xDF. -/
def opcodeRowD : List Descriptor :=
  [ ⟨.bne, .rel, 2⟩, ⟨.cmp, .izy, 5⟩, ⟨.xxx, .imp, 2⟩, ⟨.xxx, .imp, 8⟩,
    ⟨.nop, .imp, 4⟩, ⟨.cmp, .zpx, 4⟩, ⟨.dec, .zpx, 6⟩, ⟨.xxx, .imp, 6⟩,
    ⟨.cld, .imp, 2⟩, ⟨.cmp, .aby, 4⟩, ⟨.nop, .imp, 2⟩, ⟨.xxx, .imp, 7⟩,
    ⟨.nop, .imp, 4⟩, ⟨.cmp, .abx, 4⟩, ⟨.dec, .abx, 7⟩, ⟨.xxx, .imp, 7⟩ ]

/-- Opcode bytes 0xE0 to 0xEF. -/
def opcodeRowE : List Descriptor :=
  [ ⟨.cpx, .imm, 2⟩, ⟨.sbc, .izx, 6⟩, ⟨.nop, .imp, 2⟩, ⟨.xxx, .imp, 8⟩,
    ⟨.cpx, .zp0, 3⟩, ⟨.sbc, .zp0, 3⟩, ⟨.inc, .zp0, 5⟩, ⟨.xxx, .imp, 5⟩,
    ⟨.inx, .imp, 2⟩, ⟨.sbc, .imm, 2⟩, ⟨.nop, .imp, 2⟩, ⟨.xxx, .imp, 2⟩,
    ⟨.cpx, .abs, 4⟩, ⟨.sbc, .abs, 4⟩, ⟨.inc, .abs, 6⟩, ⟨.xxx, .imp, 6⟩ ]

/-- Opcode bytes 0xF0 to 0xFF. -/
def opcodeRowF : List Descriptor :=
  [ ⟨.beq, .rel, 2⟩, ⟨.sbc, .izy, 5⟩, ⟨.xxx, .imp, 2⟩, ⟨.xxx, .imp, 8⟩,
    ⟨.nop, .imp, 4⟩, ⟨.sbc, .zpx, 4⟩, ⟨.inc, .zpx, 6⟩, ⟨.xxx, .imp, 6⟩,
    ⟨.sed, .imp, 2⟩, ⟨.sbc, .aby, 4⟩, ⟨.nop, .imp, 2⟩, ⟨.xxx, .imp, 7⟩,
    ⟨.nop, .imp, 4⟩, ⟨.sbc, .abx, 4⟩, ⟨.inc, .abx, 7⟩, ⟨.xxx, .imp, 7⟩ ]

/-- The 256-entry descriptor table of R125 and R127, by its sixteen rows. The undocumented bytes have the default
`UNDOC_TABLE` (log 9). -/
def opcodeMatrix : List (List Descriptor) :=
  [opcodeRow0, opcodeRow1, opcodeRow2, opcodeRow3, opcodeRow4, opcodeRow5, opcodeRow6, opcodeRow7] ++
  [opcodeRow8, opcodeRow9, opcodeRowA, opcodeRowB, opcodeRowC, opcodeRowD, opcodeRowE, opcodeRowF]

/-- `Decode(byte0)` (R121): the descriptor of an opcode byte. All 256 bytes have a row; the value for a missing row is
never reached. -/
def descriptor (b : Byte) : Descriptor :=
  (opcodeMatrix.getD (b.toNat / 16) []).getD (b.toNat % 16) ⟨.xxx, .imp, 2⟩

/-- The encoded length of an instruction, by its mode (R124). -/
def Mode.length : Mode → Nat
  | .imp | .acc => 1
  | .imm | .zp0 | .zpx | .zpy | .rel | .izx | .izy => 2
  | .abs | .abx | .aby | .ind => 3

/-- The operand that the operand bytes give in a mode (R122, R123). IMP and REL have no operand form of their own: the
instructions with these modes take none from here. -/
def operandOf (mode : Mode) (b1 b2 : Byte) : Operand :=
  match mode with
  | .imp => .acc
  | .acc => .acc
  | .imm => .imm b1
  | .zp0 => .zp0 b1
  | .zpx => .zpx b1
  | .zpy => .zpy b1
  | .rel => .acc
  | .abs => .abs (Addr.ofBytes b1 b2)
  | .abx => .abx (Addr.ofBytes b1 b2)
  | .aby => .aby (Addr.ofBytes b1 b2)
  | .ind => .ind (Addr.ofBytes b1 b2)
  | .izx => .izx b1
  | .izy => .izy b1

/-- The instruction of an opcode with its operand, when the opcode byte and the operand bytes are these. -/
def instrOf (op : Op) (o : Operand) (b0 b1 b2 : Byte) : Instr :=
  match op with
  | .adc => .adc o
  | .and => .and o
  | .asl => .asl o
  | .bcc => .bcc b1
  | .bcs => .bcs b1
  | .beq => .beq b1
  | .bit => .bit o
  | .bmi => .bmi b1
  | .bne => .bne b1
  | .bpl => .bpl b1
  | .brk => .brk
  | .bvc => .bvc b1
  | .bvs => .bvs b1
  | .clc => .clc
  | .cld => .cld
  | .cli => .cli
  | .clv => .clv
  | .cmp => .cmp o
  | .cpx => .cpx o
  | .cpy => .cpy o
  | .dec => .dec o
  | .dex => .dex
  | .dey => .dey
  | .eor => .eor o
  | .inc => .inc o
  | .inx => .inx
  | .iny => .iny
  | .jmp => .jmp o
  | .jsr => .jsr (Addr.ofBytes b1 b2)
  | .lda => .lda o
  | .ldx => .ldx o
  | .ldy => .ldy o
  | .lsr => .lsr o
  | .nop => .nop b0
  | .ora => .ora o
  | .pha => .pha
  | .php => .php
  | .pla => .pla
  | .plp => .plp
  | .rol => .rol o
  | .ror => .ror o
  | .rti => .rti
  | .rts => .rts
  | .sbc => .sbc o
  | .sec => .sec
  | .sed => .sed
  | .sei => .sei
  | .sta => .sta o
  | .stx => .stx o
  | .sty => .sty o
  | .tax => .tax
  | .tay => .tay
  | .tsx => .tsx
  | .txa => .txa
  | .txs => .txs
  | .tya => .tya
  | .xxx => .xxx b0

/-- The instruction whose opcode byte is `b0` and whose operand bytes, as far as it has any, are `b1` and `b2`. -/
def assemble (b0 b1 b2 : Byte) : Instr :=
  instrOf (descriptor b0).op (operandOf (descriptor b0).mode b1 b2) b0 b1 b2

/-- Why a byte string is not decoded: it ends too early (no byte string is rejected for what it holds, R128, R129). -/
inductive DecodeError where
  /-- there is no opcode byte -/
  | noOpcode
  /-- the operand bytes of this opcode are missing -/
  | truncated (opcode : Byte)
deriving DecidableEq, Repr

/-- The decoder (R120, R129): the instruction that the bytes begin with, and the bytes that follow it. -/
def decode : List Byte → Except DecodeError (Instr × List Byte)
  | [] => .error .noOpcode
  | b0 :: rest =>
    match (descriptor b0).mode.length, rest with
    | 1, rest => .ok (assemble b0 0 0, rest)
    | 2, b1 :: rest => .ok (assemble b0 b1 0, rest)
    | 3, b1 :: b2 :: rest => .ok (assemble b0 b1 b2, rest)
    | _, _ => .error (.truncated b0)

/-- The bytes of a table word: bit 0 is the least significant bit of the first byte, and every bit above `nbits` is 0. -/
def tableBytes (nbits w : Nat) : List Byte :=
  let v := w % 2 ^ nbits
  [BitVec.ofNat 8 v, BitVec.ofNat 8 (v / 256), BitVec.ofNat 8 (v / 65536)]

/-- The instruction the decoder reads from a row of the opcode table. -/
def decodeTableWord (nbits w : Nat) : Option Instr :=
  match decode (tableBytes nbits w) with
  | .ok (i, _) => some i
  | .error _ => none

/-! The encoder. -/

/-- The encodings of ADC (R190). -/
def adcOpcode : Operand → Option Byte
  | .imm _ => some 0x69
  | .zp0 _ => some 0x65
  | .zpx _ => some 0x75
  | .abs _ => some 0x6D
  | .abx _ => some 0x7D
  | .aby _ => some 0x79
  | .izx _ => some 0x61
  | .izy _ => some 0x71
  | _ => none

/-- The encodings of AND (R200). -/
def andOpcode : Operand → Option Byte
  | .imm _ => some 0x29
  | .zp0 _ => some 0x25
  | .zpx _ => some 0x35
  | .abs _ => some 0x2D
  | .abx _ => some 0x3D
  | .aby _ => some 0x39
  | .izx _ => some 0x21
  | .izy _ => some 0x31
  | _ => none

/-- The encodings of ASL (R210). -/
def aslOpcode : Operand → Option Byte
  | .acc => some 0x0A
  | .zp0 _ => some 0x06
  | .zpx _ => some 0x16
  | .abs _ => some 0x0E
  | .abx _ => some 0x1E
  | _ => none

/-- The encodings of BIT (R203). -/
def bitOpcode : Operand → Option Byte
  | .zp0 _ => some 0x24
  | .abs _ => some 0x2C
  | _ => none

/-- The encodings of CMP (R220). -/
def cmpOpcode : Operand → Option Byte
  | .imm _ => some 0xC9
  | .zp0 _ => some 0xC5
  | .zpx _ => some 0xD5
  | .abs _ => some 0xCD
  | .abx _ => some 0xDD
  | .aby _ => some 0xD9
  | .izx _ => some 0xC1
  | .izy _ => some 0xD1
  | _ => none

/-- The encodings of CPX (R221). -/
def cpxOpcode : Operand → Option Byte
  | .imm _ => some 0xE0
  | .zp0 _ => some 0xE4
  | .abs _ => some 0xEC
  | _ => none

/-- The encodings of CPY (R222). -/
def cpyOpcode : Operand → Option Byte
  | .imm _ => some 0xC0
  | .zp0 _ => some 0xC4
  | .abs _ => some 0xCC
  | _ => none

/-- The encodings of DEC (R224). -/
def decOpcode : Operand → Option Byte
  | .zp0 _ => some 0xC6
  | .zpx _ => some 0xD6
  | .abs _ => some 0xCE
  | .abx _ => some 0xDE
  | _ => none

/-- The encodings of EOR (R202). -/
def eorOpcode : Operand → Option Byte
  | .imm _ => some 0x49
  | .zp0 _ => some 0x45
  | .zpx _ => some 0x55
  | .abs _ => some 0x4D
  | .abx _ => some 0x5D
  | .aby _ => some 0x59
  | .izx _ => some 0x41
  | .izy _ => some 0x51
  | _ => none

/-- The encodings of INC (R223). -/
def incOpcode : Operand → Option Byte
  | .zp0 _ => some 0xE6
  | .zpx _ => some 0xF6
  | .abs _ => some 0xEE
  | .abx _ => some 0xFE
  | _ => none

/-- The encodings of JMP (R265). -/
def jmpOpcode : Operand → Option Byte
  | .abs _ => some 0x4C
  | .ind _ => some 0x6C
  | _ => none

/-- The encodings of LDA (R280). -/
def ldaOpcode : Operand → Option Byte
  | .imm _ => some 0xA9
  | .zp0 _ => some 0xA5
  | .zpx _ => some 0xB5
  | .abs _ => some 0xAD
  | .abx _ => some 0xBD
  | .aby _ => some 0xB9
  | .izx _ => some 0xA1
  | .izy _ => some 0xB1
  | _ => none

/-- The encodings of LDX (R281). -/
def ldxOpcode : Operand → Option Byte
  | .imm _ => some 0xA2
  | .zp0 _ => some 0xA6
  | .zpy _ => some 0xB6
  | .abs _ => some 0xAE
  | .aby _ => some 0xBE
  | _ => none

/-- The encodings of LDY (R282). -/
def ldyOpcode : Operand → Option Byte
  | .imm _ => some 0xA0
  | .zp0 _ => some 0xA4
  | .zpx _ => some 0xB4
  | .abs _ => some 0xAC
  | .abx _ => some 0xBC
  | _ => none

/-- The encodings of LSR (R211). -/
def lsrOpcode : Operand → Option Byte
  | .acc => some 0x4A
  | .zp0 _ => some 0x46
  | .zpx _ => some 0x56
  | .abs _ => some 0x4E
  | .abx _ => some 0x5E
  | _ => none

/-- The encodings of ORA (R201). -/
def oraOpcode : Operand → Option Byte
  | .imm _ => some 0x09
  | .zp0 _ => some 0x05
  | .zpx _ => some 0x15
  | .abs _ => some 0x0D
  | .abx _ => some 0x1D
  | .aby _ => some 0x19
  | .izx _ => some 0x01
  | .izy _ => some 0x11
  | _ => none

/-- The encodings of ROL (R212). -/
def rolOpcode : Operand → Option Byte
  | .acc => some 0x2A
  | .zp0 _ => some 0x26
  | .zpx _ => some 0x36
  | .abs _ => some 0x2E
  | .abx _ => some 0x3E
  | _ => none

/-- The encodings of ROR (R213). -/
def rorOpcode : Operand → Option Byte
  | .acc => some 0x6A
  | .zp0 _ => some 0x66
  | .zpx _ => some 0x76
  | .abs _ => some 0x6E
  | .abx _ => some 0x7E
  | _ => none

/-- The encodings of SBC (R191). -/
def sbcOpcode : Operand → Option Byte
  | .imm _ => some 0xE9
  | .zp0 _ => some 0xE5
  | .zpx _ => some 0xF5
  | .abs _ => some 0xED
  | .abx _ => some 0xFD
  | .aby _ => some 0xF9
  | .izx _ => some 0xE1
  | .izy _ => some 0xF1
  | _ => none

/-- The encodings of STA (R283). -/
def staOpcode : Operand → Option Byte
  | .zp0 _ => some 0x85
  | .zpx _ => some 0x95
  | .abs _ => some 0x8D
  | .abx _ => some 0x9D
  | .aby _ => some 0x99
  | .izx _ => some 0x81
  | .izy _ => some 0x91
  | _ => none

/-- The encodings of STX (R284). -/
def stxOpcode : Operand → Option Byte
  | .zp0 _ => some 0x86
  | .zpy _ => some 0x96
  | .abs _ => some 0x8E
  | _ => none

/-- The encodings of STY (R285). -/
def styOpcode : Operand → Option Byte
  | .zp0 _ => some 0x84
  | .zpx _ => some 0x94
  | .abs _ => some 0x8C
  | _ => none

/-- The opcode byte of an instruction, by the encoding tables of the instruction rules; `none` for a term that no opcode
byte encodes. -/
def Instr.opcode? : Instr → Option Byte
  | .adc o => adcOpcode o
  | .and o => andOpcode o
  | .asl o => aslOpcode o
  | .bcc _ => some 0x90
  | .bcs _ => some 0xB0
  | .beq _ => some 0xF0
  | .bit o => bitOpcode o
  | .bmi _ => some 0x30
  | .bne _ => some 0xD0
  | .bpl _ => some 0x10
  | .brk => some 0x00
  | .bvc _ => some 0x50
  | .bvs _ => some 0x70
  | .clc => some 0x18
  | .cld => some 0xD8
  | .cli => some 0x58
  | .clv => some 0xB8
  | .cmp o => cmpOpcode o
  | .cpx o => cpxOpcode o
  | .cpy o => cpyOpcode o
  | .dec o => decOpcode o
  | .dex => some 0xCA
  | .dey => some 0x88
  | .eor o => eorOpcode o
  | .inc o => incOpcode o
  | .inx => some 0xE8
  | .iny => some 0xC8
  | .jmp o => jmpOpcode o
  | .jsr _ => some 0x20
  | .lda o => ldaOpcode o
  | .ldx o => ldxOpcode o
  | .ldy o => ldyOpcode o
  | .lsr o => lsrOpcode o
  | .nop b => if nopOpcodes.contains b then some b else none
  | .ora o => oraOpcode o
  | .pha => some 0x48
  | .php => some 0x08
  | .pla => some 0x68
  | .plp => some 0x28
  | .rol o => rolOpcode o
  | .ror o => rorOpcode o
  | .rti => some 0x40
  | .rts => some 0x60
  | .sbc o => sbcOpcode o
  | .sec => some 0x38
  | .sed => some 0xF8
  | .sei => some 0x78
  | .sta o => staOpcode o
  | .stx o => stxOpcode o
  | .sty o => styOpcode o
  | .tax => some 0xAA
  | .tay => some 0xA8
  | .tsx => some 0xBA
  | .txa => some 0x8A
  | .txs => some 0x9A
  | .tya => some 0x98
  | .xxx b => if isXxxOpcode b then some b else none

/-- The operand bytes of an operand form, lower address first (R61, R122). -/
def Operand.bytes : Operand → List Byte
  | .acc => []
  | .imm v => [v]
  | .zp0 zp => [zp]
  | .zpx zp => [zp]
  | .zpy zp => [zp]
  | .abs a => [a.low, a.high]
  | .abx a => [a.low, a.high]
  | .aby a => [a.low, a.high]
  | .ind a => [a.low, a.high]
  | .izx zp => [zp]
  | .izy zp => [zp]

/-- The operand bytes of an instruction. -/
def Instr.operandBytes : Instr → List Byte
  | .adc o => o.bytes
  | .and o => o.bytes
  | .asl o => o.bytes
  | .bcc rel8 => [rel8]
  | .bcs rel8 => [rel8]
  | .beq rel8 => [rel8]
  | .bit o => o.bytes
  | .bmi rel8 => [rel8]
  | .bne rel8 => [rel8]
  | .bpl rel8 => [rel8]
  | .brk => []
  | .bvc rel8 => [rel8]
  | .bvs rel8 => [rel8]
  | .clc => []
  | .cld => []
  | .cli => []
  | .clv => []
  | .cmp o => o.bytes
  | .cpx o => o.bytes
  | .cpy o => o.bytes
  | .dec o => o.bytes
  | .dex => []
  | .dey => []
  | .eor o => o.bytes
  | .inc o => o.bytes
  | .inx => []
  | .iny => []
  | .jmp o => o.bytes
  | .jsr t => [t.low, t.high]
  | .lda o => o.bytes
  | .ldx o => o.bytes
  | .ldy o => o.bytes
  | .lsr o => o.bytes
  | .nop _ => []
  | .ora o => o.bytes
  | .pha => []
  | .php => []
  | .pla => []
  | .plp => []
  | .rol o => o.bytes
  | .ror o => o.bytes
  | .rti => []
  | .rts => []
  | .sbc o => o.bytes
  | .sec => []
  | .sed => []
  | .sei => []
  | .sta o => o.bytes
  | .stx o => o.bytes
  | .sty o => o.bytes
  | .tax => []
  | .tay => []
  | .tsx => []
  | .txa => []
  | .txs => []
  | .tya => []
  | .xxx _ => []

/-- The bytes of a well-formed instruction (R120, R122); no byte for a term that is not one. -/
def encode (i : Instr) : List Byte :=
  match i.opcode? with
  | some b => b :: i.operandBytes
  | none => []

/-- The encoded length of an instruction (R124). -/
def Instr.length (i : Instr) : Nat := i.mode.length

end Sys2Proof
end

