-- ==== Sys2Proof/Machine/Memory.lean ====
section
/-! DEFINITION. The named operations over memory contents, and the canonical form. -/

namespace Sys2Proof.Machine

/-- The byte a memory holds at an address. -/
def Memory.read : Memory → Nat → Byte
  | [], _ => unlistedByte
  | (k, v) :: rest, addr => if k = addr then v else Memory.read rest addr

/-- The memory with one byte written. Keeps the canonical form: writing `unlistedByte` removes the entry. -/
def Memory.write : Memory → Nat → Byte → Memory
  | [], addr, v => if v = unlistedByte then [] else [(addr, v)]
  | (k, u) :: rest, addr, v =>
    if addr < k then (if v = unlistedByte then (k, u) :: rest else (addr, v) :: (k, u) :: rest)
    else if addr = k then (if v = unlistedByte then rest else (addr, v) :: rest)
    else (k, u) :: Memory.write rest addr v

/-- Every listed address is above `lo`, addresses rise strictly, no entry reads as an unlisted one. -/
def Memory.wfAbove : Nat → Memory → Bool
  | _, [] => true
  | lo, (k, v) :: rest => lo ≤ k && v != unlistedByte && Memory.wfAbove (k + 1) rest

/-- The canonical form. -/
def Memory.wf (mem : Memory) : Bool := Memory.wfAbove 0 mem

/-- Every listed address is below `size`. -/
def Memory.within (mem : Memory) (size : Nat) : Bool := mem.all fun cell => cell.1 < size

/-- The contents of a byte string laid down from an address on. -/
def Memory.ofBytesAt : Nat → List Byte → Memory
  | _, [] => []
  | addr, v :: rest =>
    if v = unlistedByte then Memory.ofBytesAt (addr + 1) rest else (addr, v) :: Memory.ofBytesAt (addr + 1) rest

/-- The contents of a memory that holds a byte string from offset 0. -/
def Memory.ofBytes (bytes : List Byte) : Memory := Memory.ofBytesAt 0 bytes

end Sys2Proof.Machine
end

