-- ==== Sys2Proof/Machine/Cartridge.lean ====
section
/-! DEFINITION. The cartridge controller and the mapper family (R80 to R94). -/

namespace Sys2Proof.Machine

/-- The implemented mapper variants (R86, R89) with the bank counts a mapper holds. NROM is the only one (log 16). -/
inductive Mapper where
  | nrom (prgBanks chrBanks : Nat)
deriving DecidableEq, Repr

/-- `MAPPERS` (R89, D37): the variant of a mapper id, with these bank counts; only id 0 is implemented. -/
def mapperFor (id : Byte) (prgBanks chrBanks : Nat) : Option Mapper :=
  if id = 0x00 then some (.nrom prgBanks chrBanks) else none

/-- `map_read_cpu` (R87): the PRG offset of a claimed CPU address. -/
def Mapper.mapReadCpu : Mapper → Addr → Option Nat
  | .nrom prgBanks _, addr =>
    if 0x8000#16 ≤ addr then some (addr &&& (if prgBanks > 1 then 0x7FFF#16 else 0x3FFF#16)).toNat else none

/-- `map_write_cpu` (R87): the same translation. -/
def Mapper.mapWriteCpu : Mapper → Addr → Option Nat
  | .nrom prgBanks _, addr =>
    if 0x8000#16 ≤ addr then some (addr &&& (if prgBanks > 1 then 0x7FFF#16 else 0x3FFF#16)).toNat else none

/-- `map_read_ppu` (R88): the CHR offset of a claimed peripheral-side address. -/
def Mapper.mapReadPpu : Mapper → Addr → Option Nat
  | .nrom _ _, addr => if addr ≤ 0x1FFF#16 then some addr.toNat else none

/-- `map_write_ppu` (R88): claimed only when CHR is RAM. -/
def Mapper.mapWritePpu : Mapper → Addr → Option Nat
  | .nrom _ chrBanks, addr => if addr ≤ 0x1FFF#16 ∧ chrBanks = 0 then some addr.toNat else none

/-- The mapper a cartridge answers through; an invalid cartridge answers through none (R84, R85, R90 to R92). -/
def Cartridge.mapper (c : Cartridge) : Option Mapper :=
  if c.valid then mapperFor c.mapperId c.header.prgChunks.toNat c.header.chrChunks.toNat else none

/-- The PRG offset of a CPU read that the cartridge claims (R84). -/
def Cartridge.claimReadCpu (c : Cartridge) (addr : Addr) : Option Nat := c.mapper.bind fun mp => mp.mapReadCpu addr

/-- The PRG offset of a CPU write that the cartridge claims (R85); the byte written there is discarded. -/
def Cartridge.claimWriteCpu (c : Cartridge) (addr : Addr) : Option Nat := c.mapper.bind fun mp => mp.mapWriteCpu addr

/-- `CartReadPpu(addr)` (R90): the byte, or `none` for "unclaimed". -/
def Cartridge.readPpu (c : Cartridge) (addr : Addr) : Option Byte :=
  (c.mapper.bind fun mp => mp.mapReadPpu addr).map fun off => c.chr.read off

/-- Whether `CartWritePpu(addr, v)` is claimed (R91). -/
def Cartridge.claimsWritePpu (c : Cartridge) (addr : Addr) : Bool :=
  (c.mapper.bind fun mp => mp.mapWritePpu addr).isSome

/-- The CHR contents after `CartWritePpu(addr, v)` (R91). -/
def Cartridge.chrAfterWrite (c : Cartridge) (addr : Addr) (v : Byte) : Memory :=
  match c.mapper.bind fun mp => mp.mapWritePpu addr with
  | some off => c.chr.write off v
  | none => c.chr

/-- `CartWritePpu(addr, v)` (R91): the only operation that changes cartridge storage. -/
def Cartridge.writePpu (c : Cartridge) (addr : Addr) (v : Byte) : Cartridge := { c with chr := c.chrAfterWrite addr v }

/-- The header in the first 16 bytes of an image (R80). R81 gives the header of a shorter image no value; here its missing bytes
are 0x00 (log 21, DESIGN CHOICE). -/
def Header.ofImage (image : List Byte) : Header where
  signature := #v[image.getD 0 0, image.getD 1 0, image.getD 2 0, image.getD 3 0]
  prgChunks := image.getD 4 0
  chrChunks := image.getD 5 0
  mapper1 := image.getD 6 0
  mapper2 := image.getD 7 0
  prgRamSize := image.getD 8 0
  tvSystem := #v[image.getD 9 0, image.getD 10 0]
  reserved := #v[image.getD 11 0, image.getD 12 0, image.getD 13 0, image.getD 14 0, image.getD 15 0]

/-- Whether the image has a trainer: bit 2 of `mapper_1` (R80). -/
def Header.trainer (h : Header) : Bool := h.mapper1.getLsbD 2

/-- The mapper id (R82). -/
def Header.mapperId (h : Header) : Byte := ((h.mapper2 >>> 4) <<< 4) ||| (h.mapper1 >>> 4)

/-- `p0` of R81: the offset of the PRG data in the image. -/
def Header.prgStart (h : Header) : Nat := 16 + (if h.trainer then 512 else 0)

/-- The size of PRG memory in bytes (R37). -/
def Header.prgSize (h : Header) : Nat := h.prgChunks.toNat * 16384

/-- `c0` of R81: the offset of the CHR data in the image. -/
def Header.chrStart (h : Header) : Nat := h.prgStart + h.prgSize

/-- The size of the CHR data in the image (R81). -/
def Header.chrRomSize (h : Header) : Nat := h.chrChunks.toNat * 8192

/-- The size of CHR memory in bytes: the ROM banks, or 8 192 bytes of CHR-RAM (R37, D19). -/
def Header.chrSize (h : Header) : Nat := if h.chrChunks.toNat = 0 then 8192 else h.chrRomSize

/-- How long the image must be to hold header, trainer, PRG and CHR data (R81). -/
def Header.neededLength (h : Header) : Nat := h.chrStart + h.chrRomSize

/-- Whether an image with this header and this length loads as valid (R81, R83): long enough, the mapper id implemented,
and at least one PRG bank (D24). -/
def Header.loadsValid (h : Header) (length : Nat) : Bool :=
  16 ≤ length && h.neededLength ≤ length && (mapperFor h.mapperId h.prgChunks.toNat h.chrChunks.toNat).isSome &&
    h.prgChunks.toNat != 0

/-- `Load(IMAGE)` (R81): the cartridge of an image, with the launch contents of CHR-RAM for an image that has no CHR bank.
Trailing bytes and the trainer's bytes are ignored (D33). An image that is too short has its header, PRG and CHR from the bytes
there are (log 21, DESIGN CHOICE); it is invalid, so no access reaches them. -/
def Cartridge.load (image : List Byte) (chrRamInit : Memory) : Cartridge :=
  let h := Header.ofImage image
  { header := h
    mapperId := h.mapperId
    valid := h.loadsValid image.length
    prg := Memory.ofBytes ((image.drop h.prgStart).take h.prgSize)
    chr :=
      if h.chrChunks.toNat = 0 then chrRamInit
      else Memory.ofBytes ((image.drop h.chrStart).take h.chrRomSize) }

end Sys2Proof.Machine
end

