-- ==== Sys2Proof/Machine/Bus.lean ====
section
/-! DEFINITION. The bus (R60 to R73): which responder answers an access, the byte a read returns, what an access leaves
behind, and the peripheral as an oracle (R67, R345). A read changes only the two fields of the peripheral oracle, and only in
the peripheral's window; each access is written field by field, so that every other field is unchanged by definition. -/

namespace Sys2Proof.Machine

/-- The responder of an access (R64, R65): "Exactly one responder answers". -/
inductive Responder where
  /-- the cartridge, at this PRG offset -/
  | cartridge (off : Nat)
  /-- RAM, at this index -/
  | ram (index : Nat)
  /-- the peripheral, at this register -/
  | periph (reg : BitVec 3)
  /-- nobody: open bus (R70) -/
  | openBus
deriving DecidableEq, Repr

/-- The RAM byte that a CPU address below 0x2000 selects, `addr & 0x07FF` (R66). -/
def ramIndex (addr : Addr) : Nat := (addr &&& 0x07FF#16).toNat

/-- The peripheral register that an address of the window selects, `addr & 0x0007` (R67). -/
def periphReg (addr : Addr) : BitVec 3 := addr.setWidth 3

/-- The decision order of R64 and R65, given what the cartridge claims. -/
def route (claimed : Option Nat) (addr : Addr) : Responder :=
  match claimed with
  | some off => .cartridge off
  | none =>
    if addr ≤ 0x1FFF#16 then .ram (ramIndex addr)
    else if addr ≤ 0x3FFF#16 then .periph (periphReg addr)
    else .openBus

/-- Who answers a read (R64). -/
def readResponder (c : Cartridge) (addr : Addr) : Responder := route (c.claimReadCpu addr) addr

/-- Who takes a write (R65). -/
def writeResponder (c : Cartridge) (addr : Addr) : Responder := route (c.claimWriteCpu addr) addr

/-- The byte that `MemRead(addr, 1)` returns (R64); in the peripheral's window a free value (log 6). -/
def busValue (addr : Addr) (s : State) : Byte :=
  match readResponder s.cart addr with
  | .cartridge off => s.cart.prg.read off
  | .ram index => s.ram.read index
  | .periph reg => Config.periphAnswer s.draws s.periphLog reg
  | .openBus => 0x00#8

/-- The state after `MemRead(addr, 1)`: only a read in the peripheral's window leaves a trace (R72). -/
def afterRead (addr : Addr) (s : State) : State :=
  { s with
    draws := match readResponder s.cart addr with
      | .periph _ => s.draws + 1
      | _ => s.draws
    periphLog := match readResponder s.cart addr with
      | .periph reg => .cpuRead reg (Config.periphAnswer s.draws s.periphLog reg) :: s.periphLog
      | _ => s.periphLog }

/-- `MemRead(addr, 1)` (R64). -/
def busRead (addr : Addr) (s : State) : Byte × State := (busValue addr s, afterRead addr s)

/-- `MemWrite(addr, 1, v)` (R65). A write that the cartridge claims is discarded (R85), so is one to open bus (R70); one in
the peripheral's window is recorded (R67). -/
def busWrite (addr : Addr) (v : Byte) (s : State) : State :=
  { s with
    ram := match writeResponder s.cart addr with
      | .ram index => s.ram.write index v
      | _ => s.ram
    periphLog := match writeResponder s.cart addr with
      | .periph reg => .cpuWrite reg v :: s.periphLog
      | _ => s.periphLog }

/-- The cartridge and the peripheral's record (newest first) after the peripheral's accesses, in order (R90, R91). -/
def runAccesses : List CartAccess → Cartridge × List PeriphEvent → Cartridge × List PeriphEvent
  | [], done => done
  | .read addr :: rest, (c, log) => runAccesses rest (c, .cartRead addr (c.readPpu addr) :: log)
  | .write addr v :: rest, (c, log) =>
    runAccesses rest (c.writePpu addr v, .cartWrite addr v (c.claimsWritePpu addr) :: log)

/-- `PERIPH.clock()` (R100, R345): the peripheral may perform any sequence of CHR-side accesses (log 7), and has no other
effect on this hardware. -/
def periphClock (s : State) : State :=
  let done := runAccesses (Config.periphAccesses s.draws s.periphLog s.cart.chr) (s.cart, .clocked :: s.periphLog)
  { s with
    cart := { s.cart with chr := done.1.chr }
    draws := s.draws + 1
    periphLog := done.2 }

end Sys2Proof.Machine
end

