-- ==== Sys2Proof/Machine/Operands.lean ====
section
/-! DEFINITION. The thirteen addressing modes (R160 to R174): what a resolver reads, the effective address, the extra-cycle
signal `xa`, and `fetch()` (R155). On entry PC is already past the instruction, whose operand bytes were read with its opcode. -/

namespace Sys2Proof.Machine

/-- `zext_16(v)` (R8). -/
def zext16 (v : Byte) : Addr := v.setWidth 16

/-- `sext_16(v)` (R8, R123). -/
def sext16 (v : Byte) : Addr := v.signExtend 16

/-- A page-zero address, `{0x00, zp}` (R123, R163). -/
def zeroPage (zp : Byte) : Addr := zext16 zp

/-- Whether an index addition changed the high byte of its base (R168, R174). -/
def pageCross (base target : Addr) : Bool := target.high ≠ base.high

/-- `Read16` of R10 at a pair of addresses, low byte first (D15): the 16-bit value, and the state after the two reads. -/
def readPair (loAddr hiAddr : Addr) (s : State) : Addr × State :=
  (Addr.ofBytes (busValue loAddr s) (busValue hiAddr (afterRead loAddr s)), afterRead hiAddr (afterRead loAddr s))

/-- Where IND reads the target's high byte (R170): the pointer's increment never leaves the pointer's page. -/
def indirectHigh (ptr : Addr) : Addr := if ptr.low = 0xFF#8 then ptr &&& 0xFF00#16 else ptr + 1

/-- The base that IZY adds Y to, and the state after its two pointer reads (R172). -/
def izyBase (zp : Byte) (s : State) : Addr × State := readPair (zeroPage zp) (zeroPage (zp + 1)) s

/-- The address an operand form resolves to (R160 to R172). ACC resolves to none; the latch keeps its value. -/
def effectiveAddress (o : Operand) (s : State) : Addr :=
  match o with
  | .acc => s.ea
  | .imm _ => s.pc - 1
  | .zp0 zp => zeroPage zp
  | .zpx zp => zeroPage (zp + s.x)
  | .zpy zp => zeroPage (zp + s.y)
  | .abs base => base
  | .abx base => base + zext16 s.x
  | .aby base => base + zext16 s.y
  | .ind ptr => (readPair ptr (indirectHigh ptr) s).1
  | .izx zp => (readPair (zeroPage (zp + s.x)) (zeroPage (zp + s.x + 1)) s).1
  | .izy zp => (izyBase zp s).1 + zext16 s.y

/-- The extra-cycle signal `xa` of a resolver (R168, R169, R172): a page cross of ABX, ABY or IZY. -/
def resolverBonus (o : Operand) (s : State) : Bool :=
  match o with
  | .abx base => pageCross base (base + zext16 s.x)
  | .aby base => pageCross base (base + zext16 s.y)
  | .izy zp => pageCross (izyBase zp s).1 ((izyBase zp s).1 + zext16 s.y)
  | _ => false

/-- The state after a resolver's pointer reads (IND, IZX, IZY; R152). -/
def afterPointerReads (o : Operand) (s : State) : State :=
  match o with
  | .ind ptr => (readPair ptr (indirectHigh ptr) s).2
  | .izx zp => (readPair (zeroPage (zp + s.x)) (zeroPage (zp + s.x + 1)) s).2
  | .izy zp => (izyBase zp s).2
  | _ => s

/-- `Resolve(mode)` (R160 to R172): EA is written, or M for ACC; pointer reads leave their traces. -/
def resolve (o : Operand) (s : State) : State :=
  { s with
    ea := effectiveAddress o s
    m := match o with
      | .acc => s.a
      | _ => s.m
    draws := (afterPointerReads o s).draws
    periphLog := (afterPointerReads o s).periphLog }

/-- `fetch()` (R155), after the resolver. ACC has its operand in M already; the byte of IMM was read at EA when the
instruction's bytes were read, and is not read again (R152, log 12). -/
def fetchOperand (o : Operand) (s : State) : State :=
  match o with
  | .acc => s
  | .imm v => { s with m := v }
  | _ => { afterRead s.ea s with m := busValue s.ea s }

/-- The state after the resolver and `fetch()`: the operand is in M. -/
def loadOperand (o : Operand) (s : State) : State := fetchOperand o (resolve o s)

/-- Where a read-modify-write instruction puts its result (R214): A for ACC, else the byte at EA. -/
def writeBack (o : Operand) (v : Byte) (s : State) : State :=
  match o with
  | .acc => { s with a := v }
  | _ => busWrite s.ea v s

end Sys2Proof.Machine
end

