-- ==== Sys2Proof/Machine/Ops.lean ====
section
/-! DEFINITION. The named operations every instruction is built from: the shape of an instruction's execution (R150, R151),
the stack (R11), taking an exception and returning from one (R260, R268, R325 to R327), reset (R324, R101). -/

namespace Sys2Proof.Machine

/-- The address of the stack byte that SP names (R11, R23). -/
def stackAddr (sp : Byte) : Addr := 0x0100#16 + zext16 sp

/-- `push(v)` (R11). -/
def push (v : Byte) (s : State) : State := { busWrite (stackAddr s.sp) v s with sp := s.sp - 1 }

/-- The byte that `pull()` returns (R11): SP is incremented first. -/
def pullValue (s : State) : Byte := busValue (stackAddr (s.sp + 1)) s

/-- The state after `pull()` (R11). -/
def afterPull (s : State) : State := { afterRead (stackAddr (s.sp + 1)) s with sp := s.sp + 1 }

/-- The extra cycle of R151, `xa & xb`. -/
def bonus (xa xb : Bool) : Nat := if xa && xb then 1 else 0

/-- The state in which an instruction's resolver starts (R124, R150): IR holds the opcode byte, PC is past the instruction's
bytes. -/
def enterInstr (opcode : Byte) (length : Nat) (s : State) : State :=
  { s with ir := opcode, pc := s.pc + BitVec.ofNat 16 length }

/-- The state after an instruction (R150): CYC is loaded with its total. -/
def loadCyc (total : Nat) (s : State) : State := { s with cyc := total }

/-- The shape of an instruction's execution (R150), from PC at the opcode byte to CYC loaded: IR is written, PC passes the
instruction's bytes, the body (resolver and operation) runs, CYC is loaded with the base count of the descriptor and what the
body adds, `(xa & xb) + xbr` (R151). A term that no opcode byte encodes is refused. -/
def runInstr (i : Instr) (extra : State → Nat) (body : State → State) (s : State) : Result :=
  match i.opcode? with
  | none => .refused .illFormed
  | some b =>
    let entered := enterInstr b i.length s
    .next (loadCyc ((descriptor b).base + extra entered) (body entered))

/-- An instruction with the Implied mode: M takes A (R160), then the operation; nothing is added to the base count. -/
def runImplied (i : Instr) (op : State → State) (s : State) : Result :=
  runInstr i (fun _ => 0) (fun s => op { s with m := s.a }) s

/-- An instruction that reads an operand: resolver, `fetch()`, operation on M; `xb` is the operation's signal (R173). -/
def runRead (i : Instr) (o : Operand) (xb : Bool) (op : State → State) (s : State) : Result :=
  runInstr i (fun s => bonus (resolverBonus o s) xb) (fun s => op (loadOperand o s)) s

/-- A store: resolver, then one write of `v` at EA; `xb = 0` (R173, 47_load_store_transfer.md section 2). -/
def runStore (i : Instr) (o : Operand) (v : State → Byte) (s : State) : Result :=
  runInstr i (fun s => bonus (resolverBonus o s) false)
    (fun s => let r := resolve o s; busWrite r.ea (v r) r) s

/-- A read-modify-write instruction (R214, R223, R224): operand into M, then the result of `f` and the status byte of `g`,
both from the operand and the old status; `xb = 0`. -/
def runModify (i : Instr) (o : Operand) (f g : Byte → Byte → Byte) (s : State) : Result :=
  runInstr i (fun s => bonus (resolverBonus o s) false)
    (fun s => let r := loadOperand o s; writeBack o (f r.p r.m) { r with p := g r.p r.m }) s

/-! Taking an exception, and returning from one. -/

/-- The three pushes, the Interrupt-disable flag and the vector of every exception entry (R260, R325): the return address
high byte first, then the status byte; then P is `live` with I set and PC is the word at the vector, low byte read first. -/
def takeException (ret : Addr) (pushed live : Byte) (vector : Addr) (s : State) : State :=
  let saved := push pushed (push ret.low (push ret.high s))
  let target := readPair vector (vector + 1) saved
  { target.2 with p := putFlag live .i true, pc := target.1 }

/-- The irq and BRK vector (R329). -/
def irqVector : Addr := 0xFFFE

/-- The nmi vector (R329). -/
def nmiVector : Addr := 0xFFFA

/-- The reset vector (R329). -/
def resetVector : Addr := 0xFFFC

/-- `InterruptEntry(vec, n)` (R325). -/
def interruptEntry (vector : Addr) (n : Nat) (s : State) : State :=
  { takeException s.pc (entryStatus s.p) (entryStatus s.p) vector s with cyc := n }

/-- `Irq()` (R326): nothing at all while I is set. -/
def irq (s : State) : State := if getFlag s.p .i then s else interruptEntry irqVector 7 s

/-- `Nmi()` (R327). -/
def nmi (s : State) : State := interruptEntry nmiVector 8 s

/-- What BRK does (R260), with PC one past its opcode byte: the return address skips the signature byte; the pushed status is
`P | 0x30` (R322, log 13); B is left 0. -/
def softwareInterrupt (s : State) : State :=
  takeException (s.pc + 1) (s.p ||| 0x30#8) (putFlag s.p .b false) irqVector s

/-- What RTI does (R268): status with Break cleared and Unused set, then PC low and high, not incremented. -/
def returnFromInterrupt (s : State) : State :=
  let s1 := afterPull s
  let s2 := afterPull s1
  { afterPull s2 with
    p := putFlag (putFlag (pullValue s) .b false) .u true
    pc := Addr.ofBytes (pullValue s1) (pullValue s2) }

/-- `Reset()` (R324), the CPU's own reset. -/
def cpuReset (s : State) : State :=
  let vector := readPair resetVector (resetVector + 1) s
  { vector.2 with
    a := 0x00, x := 0x00, y := 0x00, sp := 0xFD, p := 0x20, pc := vector.1
    ir := 0x00, ea := 0x0000, rel := 0x0000, m := 0x00, cyc := 8 }

/-- Bus `reset()` (R101). -/
def busReset (s : State) : State := { cpuReset s with sysclk := 0 }

/-- The launch state of R365 and R42: the cartridge of `image` inserted, RAM and CHR-RAM with their launch contents, then a
bus reset. -/
def launch (image : List Byte) (ramInit chrRamInit : Memory) : State :=
  busReset { State.reset with cart := Cartridge.load image chrRamInit, ram := ramInit }

end Sys2Proof.Machine
end

