-- ==== Sys2Proof/Machine/Arithmetic.lean ====
section
/-! DEFINITION. ADC and SBC (R190 to R192): binary whatever the Decimal flag holds. -/

namespace Sys2Proof.Machine

/-- ADC (R190). -/
def execAdc (o : Operand) (s : State) : Result :=
  runRead (.adc o) o true (fun s => { s with a := addResult s.a s.m (getFlag s.p .c), p := addFlags s.p s.a s.m }) s

/-- SBC (R191): ADC of the complemented operand. -/
def execSbc (o : Operand) (s : State) : Result :=
  runRead (.sbc o) o true
    (fun s => { s with
      a := addResult s.a (complemented s.m) (getFlag s.p .c)
      p := addFlags s.p s.a (complemented s.m) }) s

end Sys2Proof.Machine
end

