-- ==== Sys2Proof/Machine/Branch.lean ====
section
/-! DEFINITION. The eight conditional branches (R240 to R248). -/

namespace Sys2Proof.Machine

/-- The target of a branch (R240), when PC is already past the branch: `(PC + REL) mod 2^16`. -/
def branchTarget (rel8 : Byte) (s : State) : Addr := s.pc + sext16 rel8

/-- The penalty `xbr` (R240): 0 not taken, 1 taken, 2 taken to another page than that of the next instruction. -/
def branchPenalty (taken : Bool) (rel8 : Byte) (s : State) : Nat :=
  if taken then (if pageCross s.pc (branchTarget rel8 s) then 2 else 1) else 0

/-- A branch (R166, R240): REL takes the sign-extended offset; a taken branch writes EA and PC with the target, as R240's
pseudocode does and R31's last sentence does not say (log 22). -/
def runBranch (i : Instr) (rel8 : Byte) (cond : Byte → Bool) (s : State) : Result :=
  runInstr i (fun s => branchPenalty (cond s.p) rel8 s)
    (fun s => { s with
      rel := sext16 rel8
      ea := if cond s.p then branchTarget rel8 s else s.ea
      pc := if cond s.p then branchTarget rel8 s else s.pc }) s

/-- BCC (R241): taken when P.C is 0. -/
def execBcc (rel8 : Byte) (s : State) : Result :=
  runBranch (.bcc rel8) rel8 (fun p => !getFlag p .c) s

/-- BCS (R242): taken when P.C is 1. -/
def execBcs (rel8 : Byte) (s : State) : Result :=
  runBranch (.bcs rel8) rel8 (fun p => getFlag p .c) s

/-- BEQ (R243): taken when P.Z is 1. -/
def execBeq (rel8 : Byte) (s : State) : Result :=
  runBranch (.beq rel8) rel8 (fun p => getFlag p .z) s

/-- BNE (R244): taken when P.Z is 0. -/
def execBne (rel8 : Byte) (s : State) : Result :=
  runBranch (.bne rel8) rel8 (fun p => !getFlag p .z) s

/-- BMI (R245): taken when P.N is 1. -/
def execBmi (rel8 : Byte) (s : State) : Result :=
  runBranch (.bmi rel8) rel8 (fun p => getFlag p .n) s

/-- BPL (R246): taken when P.N is 0. -/
def execBpl (rel8 : Byte) (s : State) : Result :=
  runBranch (.bpl rel8) rel8 (fun p => !getFlag p .n) s

/-- BVC (R247): taken when P.V is 0. -/
def execBvc (rel8 : Byte) (s : State) : Result :=
  runBranch (.bvc rel8) rel8 (fun p => !getFlag p .v) s

/-- BVS (R248): taken when P.V is 1. -/
def execBvs (rel8 : Byte) (s : State) : Result :=
  runBranch (.bvs rel8) rel8 (fun p => getFlag p .v) s

end Sys2Proof.Machine
end

