-- ==== Sys2Proof/Machine/Compare.lean ====
section
/-! DEFINITION. Compares (R220 to R222, R229), increments and decrements (R223 to R228). -/

namespace Sys2Proof.Machine

/-- CMP (R220). -/
def execCmp (o : Operand) (s : State) : Result :=
  runRead (.cmp o) o true (fun s => { s with p := compareFlags s.p s.a s.m }) s

/-- CPX (R221). -/
def execCpx (o : Operand) (s : State) : Result :=
  runRead (.cpx o) o false (fun s => { s with p := compareFlags s.p s.x s.m }) s

/-- CPY (R222). -/
def execCpy (o : Operand) (s : State) : Result :=
  runRead (.cpy o) o false (fun s => { s with p := compareFlags s.p s.y s.m }) s

/-- INC (R223). -/
def execInc (o : Operand) (s : State) : Result :=
  runModify (.inc o) o (fun _ v => v + 1) (fun p v => setZN p (v + 1)) s

/-- DEC (R224). -/
def execDec (o : Operand) (s : State) : Result :=
  runModify (.dec o) o (fun _ v => v - 1) (fun p v => setZN p (v - 1)) s

/-- INX (R225). -/
def execInx (s : State) : Result :=
  runImplied .inx (fun s => { s with x := s.x + 1, p := setZN s.p (s.x + 1) }) s

/-- INY (R226). -/
def execIny (s : State) : Result :=
  runImplied .iny (fun s => { s with y := s.y + 1, p := setZN s.p (s.y + 1) }) s

/-- DEX (R227). -/
def execDex (s : State) : Result :=
  runImplied .dex (fun s => { s with x := s.x - 1, p := setZN s.p (s.x - 1) }) s

/-- DEY (R228). -/
def execDey (s : State) : Result :=
  runImplied .dey (fun s => { s with y := s.y - 1, p := setZN s.p (s.y - 1) }) s

end Sys2Proof.Machine
end

