-- ==== Sys2Proof/Machine/Control.lean ====
section
/-! DEFINITION. BRK, the stack instructions, jumps, subroutine call and returns (R260 to R268). -/

namespace Sys2Proof.Machine

/-- BRK (R260). -/
def execBrk (s : State) : Result := runImplied .brk softwareInterrupt s

/-- PHA (R261). -/
def execPha (s : State) : Result := runImplied .pha (fun s => push s.a s) s

/-- PHP (R262): the pushed byte has B and U set, P is unchanged. -/
def execPhp (s : State) : Result := runImplied .php (fun s => push (s.p ||| 0x30#8) s) s

/-- PLA (R263). -/
def execPla (s : State) : Result :=
  runImplied .pla (fun s => { afterPull s with a := pullValue s, p := setZN s.p (pullValue s) }) s

/-- PLP (R264): all eight bits pulled, bit 5 forced to 1. -/
def execPlp (s : State) : Result := runImplied .plp (fun s => { afterPull s with p := pullValue s ||| 0x20#8 }) s

/-- JMP (R265): PC takes EA; nothing is read at EA. -/
def execJmp (o : Operand) (s : State) : Result :=
  runInstr (.jmp o) (fun _ => 0) (fun s => { resolve o s with pc := effectiveAddress o s }) s

/-- JSR (R266): pushes the address of its own last byte, high byte first. -/
def execJsr (target : Addr) (s : State) : Result :=
  runInstr (.jsr target) (fun _ => 0)
    (fun s =>
      let ret := s.pc - 1
      { push ret.low (push ret.high { s with ea := target }) with pc := target }) s

/-- RTS (R267): pulls low and high, and adds 1. -/
def execRts (s : State) : Result :=
  runImplied .rts
    (fun s =>
      let s1 := afterPull s
      { afterPull s1 with pc := Addr.ofBytes (pullValue s) (pullValue s1) + 1 }) s

/-- RTI (R268). -/
def execRti (s : State) : Result := runImplied .rti returnFromInterrupt s

end Sys2Proof.Machine
end

