-- ==== Sys2Proof/Machine/FlagOps.lean ====
section
/-! DEFINITION. Flag set and clear, NOP and the XXX fallback (R300 to R309). -/

namespace Sys2Proof.Machine

/-- CLC (R300). -/
def execClc (s : State) : Result := runImplied .clc (fun s => { s with p := putFlag s.p .c false }) s

/-- CLD (R301). -/
def execCld (s : State) : Result := runImplied .cld (fun s => { s with p := putFlag s.p .d false }) s

/-- CLI (R302). -/
def execCli (s : State) : Result := runImplied .cli (fun s => { s with p := putFlag s.p .i false }) s

/-- CLV (R303). -/
def execClv (s : State) : Result := runImplied .clv (fun s => { s with p := putFlag s.p .v false }) s

/-- SEC (R304). -/
def execSec (s : State) : Result := runImplied .sec (fun s => { s with p := putFlag s.p .c true }) s

/-- SED (R305). -/
def execSed (s : State) : Result := runImplied .sed (fun s => { s with p := putFlag s.p .d true }) s

/-- SEI (R306). -/
def execSei (s : State) : Result := runImplied .sei (fun s => { s with p := putFlag s.p .i true }) s

/-- The signal `xb` of the NOP operation (R307, R308): it inspects IR. -/
def nopBonus (ir : Byte) : Bool := [0x1C#8, 0x3C#8, 0x5C#8, 0x7C#8, 0xDC#8, 0xFC#8].contains ir

/-- NOP, documented and undocumented (R307, R308): no effect. The mode is IMP, so `xa = 0` and the bonus is never earned. -/
def execNop (opcode : Byte) (s : State) : Result :=
  runInstr (.nop opcode) (fun s => bonus false (nopBonus s.ir)) (fun s => { s with m := s.a }) s

/-- XXX, the illegal-opcode fallback (R309): no effect, no trap. -/
def execXxx (opcode : Byte) (s : State) : Result := runImplied (.xxx opcode) (fun s => s) s

end Sys2Proof.Machine
end

