-- ==== Sys2Proof/Machine/Logic.lean ====
section
/-! DEFINITION. AND, ORA, EOR and BIT (R200 to R203). -/

namespace Sys2Proof.Machine

/-- AND (R200). -/
def execAnd (o : Operand) (s : State) : Result :=
  runRead (.and o) o true (fun s => { s with a := s.a &&& s.m, p := setZN s.p (s.a &&& s.m) }) s

/-- ORA (R201). -/
def execOra (o : Operand) (s : State) : Result :=
  runRead (.ora o) o true (fun s => { s with a := s.a ||| s.m, p := setZN s.p (s.a ||| s.m) }) s

/-- EOR (R202). -/
def execEor (o : Operand) (s : State) : Result :=
  runRead (.eor o) o true (fun s => { s with a := s.a ^^^ s.m, p := setZN s.p (s.a ^^^ s.m) }) s

/-- BIT (R203): flags only. -/
def execBit (o : Operand) (s : State) : Result :=
  runRead (.bit o) o false (fun s => { s with p := bitFlags s.p s.a s.m }) s

end Sys2Proof.Machine
end

