-- ==== Sys2Proof/Machine/Move.lean ====
section
/-! DEFINITION. Loads, stores and register transfers (R280 to R291). -/

namespace Sys2Proof.Machine

/-- LDA (R280). -/
def execLda (o : Operand) (s : State) : Result :=
  runRead (.lda o) o true (fun s => { s with a := s.m, p := setZN s.p s.m }) s

/-- LDX (R281). -/
def execLdx (o : Operand) (s : State) : Result :=
  runRead (.ldx o) o true (fun s => { s with x := s.m, p := setZN s.p s.m }) s

/-- LDY (R282). -/
def execLdy (o : Operand) (s : State) : Result :=
  runRead (.ldy o) o true (fun s => { s with y := s.m, p := setZN s.p s.m }) s

/-- STA (R283). -/
def execSta (o : Operand) (s : State) : Result := runStore (.sta o) o (fun s => s.a) s

/-- STX (R284). -/
def execStx (o : Operand) (s : State) : Result := runStore (.stx o) o (fun s => s.x) s

/-- STY (R285). -/
def execSty (o : Operand) (s : State) : Result := runStore (.sty o) o (fun s => s.y) s

/-- TAX (R286). -/
def execTax (s : State) : Result := runImplied .tax (fun s => { s with x := s.a, p := setZN s.p s.a }) s

/-- TAY (R287). -/
def execTay (s : State) : Result := runImplied .tay (fun s => { s with y := s.a, p := setZN s.p s.a }) s

/-- TXA (R288). -/
def execTxa (s : State) : Result := runImplied .txa (fun s => { s with a := s.x, p := setZN s.p s.x }) s

/-- TYA (R289). -/
def execTya (s : State) : Result := runImplied .tya (fun s => { s with a := s.y, p := setZN s.p s.y }) s

/-- TSX (R290). -/
def execTsx (s : State) : Result := runImplied .tsx (fun s => { s with x := s.sp, p := setZN s.p s.sp }) s

/-- TXS (R291): no flag. -/
def execTxs (s : State) : Result := runImplied .txs (fun s => { s with sp := s.x }) s

end Sys2Proof.Machine
end

