-- ==== Sys2Proof/Machine/Shift.lean ====
section
/-! DEFINITION. ASL, LSR, ROL, ROR on the accumulator or on memory (R210 to R214). -/

namespace Sys2Proof.Machine

/-- The result of ASL (R210). -/
def aslResult (_p v : Byte) : Byte := v <<< 1

/-- The result of LSR (R211). -/
def lsrResult (_p v : Byte) : Byte := v >>> 1

/-- The result of ROL: the old Carry enters at bit 0 (R212). -/
def rolResult (p v : Byte) : Byte := (v <<< 1) ||| (if getFlag p .c then 0x01#8 else 0x00#8)

/-- The result of ROR: the old Carry enters at bit 7 (R213). -/
def rorResult (p v : Byte) : Byte := (if getFlag p .c then 0x80#8 else 0x00#8) ||| (v >>> 1)

/-- ASL (R210): C is the old bit 7. -/
def execAsl (o : Operand) (s : State) : Result :=
  runModify (.asl o) o aslResult (fun p v => shiftFlags p (aslResult p v) (v.getLsbD 7)) s

/-- LSR (R211): C is the old bit 0. -/
def execLsr (o : Operand) (s : State) : Result :=
  runModify (.lsr o) o lsrResult (fun p v => shiftFlags p (lsrResult p v) (v.getLsbD 0)) s

/-- ROL (R212): C is the old bit 7. -/
def execRol (o : Operand) (s : State) : Result :=
  runModify (.rol o) o rolResult (fun p v => shiftFlags p (rolResult p v) (v.getLsbD 7)) s

/-- ROR (R213): C is the old bit 0. -/
def execRor (o : Operand) (s : State) : Result :=
  runModify (.ror o) o rorResult (fun p v => shiftFlags p (rorResult p v) (v.getLsbD 0)) s

end Sys2Proof.Machine
end

