-- ==== Sys2Proof/Machine/Clock.lean ====
section
/-! DEFINITION. Fetching an instruction's bytes, the CPU clock tick (R150, R153) and the system clock tick (R100). -/

namespace Sys2Proof.Machine

/-- `n` byte reads at ascending addresses (R120, R152), 16-bit wrap (R24, R62): the bytes, and the state after the reads. -/
def readBytes : Nat → Addr → State → List Byte × State
  | 0, _, s => ([], s)
  | n + 1, addr, s =>
    let rest := readBytes n (addr + 1) (afterRead addr s)
    (busValue addr s :: rest.1, rest.2)

/-- The bytes of the next instruction (R120, R150, R152): the opcode byte at PC, and as many operand bytes as its mode has
(R124). They come by the same reads as data (R108). -/
def fetchBytes (s : State) : List Byte × State :=
  readBytes (descriptor (busValue s.pc s)).mode.length s.pc s

/-- Fetch, decode and execute one instruction (R150), leaving CYC at the instruction's total. Decoding never fails (R129), so
the last arm is never taken. -/
def executeNext (s : State) : Result :=
  match decode (fetchBytes s).1 with
  | .ok (i, _) => exec i (fetchBytes s).2
  | .error _ => .refused .illFormed

/-- A change applied to the state a step goes on to. -/
def onNext (f : State → State) : Result → Result
  | .next s => .next (f s)
  | .fault r => .fault r
  | .refused r => .refused r

/-- `CYC <- CYC - 1` (R150). -/
def countDown (s : State) : State := { s with cyc := s.cyc - 1 }

/-- `CpuClock()` (R150): at an instruction boundary the whole next instruction; on every call CYC counts down. -/
def cpuClock (s : State) : Result := if s.cyc = 0 then onNext countDown (executeNext s) else .next (countDown s)

/-- `SYSCLK <- SYSCLK + 1` (R100). -/
def countTick (s : State) : State := { s with sysclk := s.sysclk + 1 }

/-- `SystemTick()` (R100): the peripheral first, then on every third tick the CPU, then the counter. -/
def systemTick (s : State) : Result :=
  let ticked := periphClock s
  onNext countTick (if ticked.sysclk % 3 = 0 then cpuClock ticked else .next ticked)

end Sys2Proof.Machine
end

