-- ==== Sys2Proof/Machine/External.lean ====
section
/-! DEFINITION. What the host can do to the hardware (R335, R73) and see of it (R348). -/

namespace Sys2Proof.Machine

/-- `is_complete()` (R153, R348): an instruction boundary. -/
def State.isComplete (s : State) : Bool := s.cyc = 0

/-- The scan of `disassemble` (R348) from `addr`, in naturals: the keys, and the state after the bus reads. Each key is at
least one above the one before it, so `fuel = stop + 1 - addr` is enough. -/
def disassembleFrom : Nat → Nat → Nat → State → List Nat × State
  | 0, _, _, s => ([], s)
  | fuel + 1, addr, stop, s =>
    if addr ≤ stop then
      let at_ := BitVec.ofNat 16 addr
      let next := addr + (descriptor (busValue at_ s)).mode.length
      let rest := disassembleFrom fuel next stop (afterRead at_ s)
      (addr :: rest.1, rest.2)
    else ([], s)

/-- `DisassembleKeys(start, stop)` (R348), with the state after its reads; no keys when `start > stop` (D36). -/
def disassemble (start stop : Addr) (s : State) : List Nat × State :=
  disassembleFrom (stop.toNat + 1 - start.toNat) start.toNat stop.toNat s

/-- One call of the host (R335): it "runs to completion before the next". -/
def hostCall (call : HostCall) (s : State) : Result :=
  match call with
  | .clock => systemTick s
  | .busReset => .next (busReset s)
  | .cpuReset => .next (cpuReset s)
  | .irq => .next (irq s)
  | .nmi => .next (nmi s)
  | .read addr => .next (afterRead addr s)
  | .write addr v => .next (busWrite addr v s)
  | .disassemble start stop => .next (disassemble start stop s).2

/-- The host's next call: the first of its list, and a system tick when the list is empty (the spec's default HOST, "ticks
only, no events"; log 2). -/
def nextCall (s : State) : HostCall := s.host.headD .clock

/-! Placing an instruction where the next one is fetched: the load of a program from outside (log 17). -/

/-- Whether an address is backed by storage: RAM or PRG. -/
def hasStorage (addr : Addr) (s : State) : Bool :=
  match readResponder s.cart addr with
  | .cartridge _ => true
  | .ram _ => true
  | _ => false

/-- A byte put into the storage behind an address, from outside (not a bus write). -/
def placeByte (addr : Addr) (v : Byte) (s : State) : State :=
  match readResponder s.cart addr with
  | .cartridge off => { s with cart := { s.cart with prg := s.cart.prg.write off v } }
  | .ram index => { s with ram := s.ram.write index v }
  | _ => s

/-- Where a three-byte instruction can be placed for the next fetch: at PC if storage is behind all three addresses, else at
0x0200 (log 17). -/
def placementAddr (s : State) : Addr :=
  if hasStorage s.pc s && hasStorage (s.pc + 1) s && hasStorage (s.pc + 2) s then s.pc else 0x0200

/-- The state about to execute the instruction with these bytes in its next step. -/
def placeInstr (b0 b1 b2 : Byte) (s : State) : State :=
  let addr := placementAddr s
  let placed := placeByte (addr + 2) b2 (placeByte (addr + 1) b1 (placeByte addr b0 s))
  { placed with pc := addr, cyc := 0, sysclk := 3 * (s.sysclk / 3), host := [] }

end Sys2Proof.Machine
end

