-- ==== Sys2Proof/Machine/Step.lean ====
section
/-! DEFINITION. One step of the hardware: one call of the host (R335); and the state whose next step runs a given instruction. -/

namespace Sys2Proof.Machine

/-- One step: the host's next call is taken off its list and performed (log 2). -/
def step (s : State) : Host.Outcome State Fault Refusal :=
  hostCall (nextCall s) { s with host := s.host.tail }

/-- `s` with the instruction of a table word stored where the next step fetches it, at an instruction boundary, with the next
call a system tick that reaches the CPU (log 17). -/
def State.withFetchWord (s : State) (nbits w : Nat) : State :=
  let v := w % 2 ^ nbits
  placeInstr (BitVec.ofNat 8 v) (BitVec.ofNat 8 (v / 256)) (BitVec.ofNat 8 (v / 65536)) s

end Sys2Proof.Machine
end

