-- ==== Sys2Proof/Safety.lean ====
section
/-! DEFINITION. The terms the claims use: the machine's invariant, what a frame keeps, the cycle columns of the instruction
tables. A run of this hardware is always safe: no step stops (R321). -/

namespace Sys2Proof.Machine

/-! The invariant. -/

/-- A cartridge as `Load` makes it (R81 to R83): a valid one has mapper id 0 and at least one PRG bank; the memories are in
canonical form and inside their sizes (R37). -/
structure Cartridge.Inv (c : Cartridge) : Prop where
  mapperImplemented : c.valid = true → c.mapperId = 0x00
  hasPrgBank : c.valid = true → c.header.prgChunks ≠ 0x00
  prgCanonical : c.prg.wf = true
  prgWithin : c.prg.within c.header.prgSize = true
  chrCanonical : c.chr.wf = true
  chrWithin : c.chr.within c.header.chrSize = true

/-- The machine's invariant: the Unused flag is 1 (R27), CYC is at most 8 (R33), RAM is in canonical form and inside its
2 048 bytes (R36), and the cartridge is one that `Load` makes. -/
structure State.Inv (s : State) : Prop where
  unusedSet : getFlag s.p .u = true
  cycBounded : s.cyc ≤ 8
  ramCanonical : s.ram.wf = true
  ramWithin : s.ram.within 2048 = true
  cartridge : s.cart.Inv

/-! Frames. -/

/-- The peripheral's window, 0x2000 to 0x3FFF (R67): the only addresses whose reads are free values. -/
def inWindow (addr : Addr) : Bool := 0x2000#16 ≤ addr && addr ≤ 0x3FFF#16

/-- Two addresses that select the same RAM byte (R66). -/
def sameRamByte (a b : Addr) : Prop := a ≤ 0x1FFF#16 ∧ b ≤ 0x1FFF#16 ∧ a &&& 0x07FF#16 = b &&& 0x07FF#16

/-- Every flag outside `written` is the same in `q` as in `p`. -/
def FlagsKept (p q : Byte) (written : List Flag) : Prop := ∀ f, f ∉ written → getFlag q f = getFlag p f

/-- `q` is `p` with Zero and Negative from `v`, and nothing else written (R12). -/
def ZeroNegativeFrom (v p q : Byte) : Prop :=
  getFlag q .z = decide (v = 0) ∧ getFlag q .n = v.getLsbD 7 ∧ FlagsKept p q [.z, .n]

/-- `q` is `p` with Carry `c`, Zero and Negative from `v`, and nothing else written. -/
def CarryZeroNegativeFrom (c : Bool) (v p q : Byte) : Prop :=
  getFlag q .c = c ∧ getFlag q .z = decide (v = 0) ∧ getFlag q .n = v.getLsbD 7 ∧ FlagsKept p q [.c, .z, .n]

/-- `q` is `p` with one flag written. -/
def OneFlagWritten (f : Flag) (v : Bool) (p q : Byte) : Prop := getFlag q f = v ∧ FlagsKept p q [f]

/-- Every byte outside the window reads as before, but for the RAM byte at `stored`. -/
def MemoryKeptBut (stored : Addr) (s t : State) : Prop :=
  ∀ addr, inWindow addr = false → ¬ sameRamByte stored addr → busValue addr t = busValue addr s

/-- Every byte outside the window reads as before. -/
def MemoryKept (s t : State) : Prop := ∀ addr, inWindow addr = false → busValue addr t = busValue addr s

/-- The state in which the resolver of an instruction starts: IR is its opcode byte, PC is past its bytes (R150). -/
def entered (i : Instr) (s : State) : State := enterInstr (i.opcode?.getD 0) i.length s

/-- The address an instruction's operand form resolves to, from the state before the instruction. -/
def operandAddr (i : Instr) (o : Operand) (s : State) : Addr := effectiveAddress o (entered i s)

/-- The state in which the operation of an instruction with an operand runs: the operand is in M (R155). -/
def fetched (i : Instr) (o : Operand) (s : State) : State := loadOperand o (entered i s)

/-- The operand byte `fetch()` returns to an instruction (R155). -/
def operandByte (i : Instr) (o : Operand) (s : State) : Byte := (fetched i o s).m

/-- What every instruction with the Implied mode leaves beside its own effect: IR, PC, M (R150, R160), and a new CYC. -/
def impliedDone (i : Instr) (cycles : Nat) (s : State) : State :=
  { s with ir := i.opcode?.getD 0, pc := s.pc + 1, m := s.a, cyc := cycles }

/-- What every instruction that only resolves an address leaves beside its own effect: IR, PC, EA (R150), and a new CYC. -/
def addressDone (i : Instr) (o : Operand) (cycles : Nat) (s : State) : State :=
  { s with
    ir := i.opcode?.getD 0
    pc := s.pc + BitVec.ofNat 16 i.length
    ea := operandAddr i o s
    cyc := cycles }

/-- What every instruction that fetches an operand leaves beside its own effect: IR, PC, EA, M (R150, R155), a new CYC, and
the traces of a read in the peripheral's window (R67). -/
def operandDone (i : Instr) (o : Operand) (cycles : Nat) (s : State) : State :=
  { addressDone i o cycles s with
    m := operandByte i o s
    draws := (fetched i o s).draws
    periphLog := (fetched i o s).periphLog }

/-- One byte `v` was stored at `E` (R65): a RAM byte reads back as `v`, every other byte of memory reads as before, and a store
in the peripheral's window is recorded on top of `log`. -/
def StoredAt (E : Addr) (v : Byte) (log : List PeriphEvent) (s t : State) : Prop :=
  (s.ram.wf = true → E ≤ 0x1FFF#16 → busValue E t = v) ∧ MemoryKeptBut E s t ∧
  t.periphLog = if inWindow E then .cpuWrite (E.setWidth 3) v :: log else log

/-- RAM byte `0x100 + sp`: the stack byte of a stack pointer (R23). -/
def stackByte (s : State) (sp : Byte) : Byte := s.ram.read (0x100 + sp.toNat)

/-- Three bytes were pushed from stack pointer `s.sp` down, and no other byte of memory changed (R11, R325). -/
def PushedThree (first second third : Byte) (s t : State) : Prop :=
  stackByte t s.sp = first ∧ stackByte t (s.sp - 1) = second ∧ stackByte t (s.sp - 2) = third ∧
  ∀ addr, inWindow addr = false → ¬ sameRamByte (stackAddr s.sp) addr → ¬ sameRamByte (stackAddr (s.sp - 1)) addr →
    ¬ sameRamByte (stackAddr (s.sp - 2)) addr → busValue addr t = busValue addr s

/-- The `n` bytes that lie topmost on the stack of `s` are the same in `t`; below them anything may have been pushed and pulled. -/
def StackedBytesKept (n : Nat) (s t : State) : Prop :=
  ∀ k, 1 ≤ k → k ≤ n → stackByte t (s.sp + BitVec.ofNat 8 k) = stackByte s (s.sp + BitVec.ofNat 8 k)

/-- The word at a vector, low byte at the lower address (R61, R329). -/
def vectorWord (s : State) (vector : Addr) : Addr := Addr.ofBytes (busValue vector s) (busValue (vector + 1) s)

/-- The word at two bytes of page zero, the second address wrapping inside the page (R171, R172). -/
def pageZeroWord (zp : Byte) (s : State) : Addr := Addr.ofBytes (s.ram.read zp.toNat) (s.ram.read (zp + 1).toNat)

/-- Everything but CYC, SYSCLK, CHR contents and the peripheral oracle's fields is the same: what a tick that only counts keeps
(R153, R154). -/
def IdleKept (s t : State) : Prop :=
  t = { s with
    cyc := t.cyc
    sysclk := t.sysclk
    cart := { s.cart with chr := t.cart.chr }
    draws := t.draws
    periphLog := t.periphLog }

/-! The cycle columns of the encoding tables (R190 to R309, regularities in R126; log 10). -/

/-- One more cycle when the indexed address lies in another page than its base (R168, R174). -/
def crossCycle (base target : Addr) : Nat := if target.high = base.high then 0 else 1

/-- The cycles of a reading instruction with `xb = 1` (R173), and of CPX, CPY and BIT, which have no indexed form. -/
def readCycles (o : Operand) (s : State) : Nat :=
  match o with
  | .acc => 2
  | .imm _ => 2
  | .zp0 _ => 3
  | .zpx _ => 4
  | .zpy _ => 4
  | .abs _ => 4
  | .abx base => 4 + crossCycle base (base + s.x.setWidth 16)
  | .aby base => 4 + crossCycle base (base + s.y.setWidth 16)
  | .ind _ => 5
  | .izx _ => 6
  | .izy zp => 5 + crossCycle (pageZeroWord zp s) (pageZeroWord zp s + s.y.setWidth 16)

/-- The cycles of a store (R283 to R285): no bonus. -/
def storeCycles : Operand → Nat
  | .acc => 2
  | .imm _ => 2
  | .zp0 _ => 3
  | .zpx _ => 4
  | .zpy _ => 4
  | .abs _ => 4
  | .abx _ => 5
  | .aby _ => 5
  | .ind _ => 5
  | .izx _ => 6
  | .izy _ => 6

/-- The cycles of a shift, rotate, increment or decrement of memory or of the accumulator (R210 to R213, R223, R224). -/
def modifyCycles : Operand → Nat
  | .acc => 2
  | .imm _ => 2
  | .zp0 _ => 5
  | .zpx _ => 6
  | .zpy _ => 6
  | .abs _ => 6
  | .abx _ => 7
  | .aby _ => 7
  | .ind _ => 7
  | .izx _ => 8
  | .izy _ => 8

/-- The address that a branch with this offset byte goes to (R240): the next instruction's address plus the signed offset. -/
def branchGoal (rel8 : Byte) (s : State) : Addr := BitVec.ofInt 16 ((s.pc + 2).toNat + rel8.toInt)

/-- The cycles of a branch (R240): 2 not taken, 3 taken within the next instruction's page, 4 taken to another. -/
def branchCycles (taken : Bool) (rel8 : Byte) (s : State) : Nat :=
  if taken then 3 + crossCycle (s.pc + 2) (branchGoal rel8 s) else 2

/-- The cycles of the 77 XXX bytes, as the cells of R125 give them (log 9). -/
def xxxCycles (b : Byte) : Nat :=
  if [0x87#8, 0xA7].contains b then 3
  else if [0x8F#8, 0xAF, 0xBF, 0x97, 0xB7, 0xBB].contains b then 4
  else if [0x07#8, 0x27, 0x47, 0x67, 0xC7, 0xE7, 0x9B, 0x9E, 0x9F, 0xB3].contains b then 5
  else if [0x0F#8, 0x2F, 0x4F, 0x6F, 0xCF, 0xEF, 0x17, 0x37, 0x57, 0x77, 0xD7, 0xF7, 0x83, 0x93, 0xA3].contains b then 6
  else if [0x1B#8, 0x3B, 0x5B, 0x7B, 0xDB, 0xFB, 0x1F, 0x3F, 0x5F, 0x7F, 0xDF, 0xFF].contains b then 7
  else if [0x03#8, 0x13, 0x23, 0x33, 0x43, 0x53, 0x63, 0x73, 0xC3, 0xD3, 0xE3, 0xF3].contains b then 8
  else 2

/-- The total `n` of an instruction (R151), as the cycle columns of the instruction rules give it. -/
def cycleCount (i : Instr) (s : State) : Nat :=
  match i with
  | .adc o | .sbc o | .and o | .ora o | .eor o | .bit o | .cmp o | .cpx o | .cpy o | .lda o | .ldx o | .ldy o => readCycles o s
  | .sta o | .stx o | .sty o => storeCycles o
  | .asl o | .lsr o | .rol o | .ror o | .inc o | .dec o => modifyCycles o
  | .bcc rel8 => branchCycles (!getFlag s.p .c) rel8 s
  | .bcs rel8 => branchCycles (getFlag s.p .c) rel8 s
  | .bne rel8 => branchCycles (!getFlag s.p .z) rel8 s
  | .beq rel8 => branchCycles (getFlag s.p .z) rel8 s
  | .bpl rel8 => branchCycles (!getFlag s.p .n) rel8 s
  | .bmi rel8 => branchCycles (getFlag s.p .n) rel8 s
  | .bvc rel8 => branchCycles (!getFlag s.p .v) rel8 s
  | .bvs rel8 => branchCycles (getFlag s.p .v) rel8 s
  | .jmp (.ind _) => 5
  | .jmp _ => 3
  | .jsr _ | .rts | .rti => 6
  | .brk => 7
  | .pha | .php => 3
  | .pla | .plp => 4
  | .inx | .iny | .dex | .dey | .tax | .tay | .txa | .tya | .tsx | .txs | .clc | .cld | .cli | .clv | .sec | .sed | .sei => 2
  | .nop b =>
    if [0x04#8, 0x44, 0x64].contains b then 3
    else if [0x0C#8, 0x14, 0x34, 0x54, 0x74, 0xD4, 0xF4, 0x1C, 0x3C, 0x5C, 0x7C, 0xDC, 0xFC].contains b then 4
    else if b = 0x9C then 5
    else 2
  | .xxx b => xxxCycles b

end Sys2Proof.Machine
end

