-- ==== Sys2Proof/Certificates/Slice0/Obligations.lean ====
section
/-! DEFINITION. The statements for the provers. Rule numbers are those of spec/; "log n" is notes/assumptions/n.md. -/

section Statements

open Sys2Proof Sys2Proof.Machine

/-! Encoding. -/

/-- R120 to R124: decoding the bytes of a well-formed instruction gives it back, with every operand value, whatever bytes
follow. The opcode bytes themselves are the spec's (log 10, log 9). -/
def Obligations.DecodeEncodeRoundTrip : Prop :=
  ∀ (i : Instr) (rest : List Byte), i.wf = true → decode (encode i ++ rest) = .ok (i, rest)

/-- R120: what the decoder reads is well-formed, and its bytes are the bytes that were read: no two byte strings decode to one
instruction, and no bit is dropped. -/
def Obligations.EncodeDecodeRoundTrip : Prop :=
  ∀ (bytes rest : List Byte) (i : Instr), decode bytes = .ok (i, rest) → i.wf = true ∧ bytes = encode i ++ rest

/-- R129: decoding succeeds at every address of every state; the length is that of R124, and the bytes are those a bus read
returns at PC and the one or two addresses after it, modulo 2^16, where none of them is in the peripheral's window. -/
def Obligations.EveryFetchDecodes : Prop :=
  ∀ s : State, ∃ i : Instr, decode (fetchBytes s).1 = .ok (i, []) ∧ i.wf = true ∧
    (fetchBytes s).1.length = i.length ∧ (i.length = 1 ∨ i.length = 2 ∨ i.length = 3) ∧
    ((inWindow s.pc = false ∧ inWindow (s.pc + 1) = false ∧ inWindow (s.pc + 2) = false) →
      (fetchBytes s).1 = [busValue s.pc s, busValue (s.pc + 1) s, busValue (s.pc + 2) s].take i.length ∧
      (fetchBytes s).2 = s)

/-- The operand syntax table of R130 (D30) and the words of the opcode matrix (D1, log 10): one or more words of every family
and operand form. -/
def Obligations.WordsDecodeAsTheTablesSay : Prop :=
  decode [0x18] = .ok (.clc, []) ∧
  decode [0x0A] = .ok (.asl .acc, []) ∧
  decode [0xA9, 0x10] = .ok (.lda (.imm 0x10), []) ∧
  decode [0xA5, 0x10] = .ok (.lda (.zp0 0x10), []) ∧
  decode [0xB5, 0x10] = .ok (.lda (.zpx 0x10), []) ∧
  decode [0xB6, 0x10] = .ok (.ldx (.zpy 0x10), []) ∧
  decode [0xD0, 0xFB] = .ok (.bne 0xFB, []) ∧
  decode [0x4C, 0x00, 0x80] = .ok (.jmp (.abs 0x8000), []) ∧
  decode [0xBD, 0xFF, 0x20] = .ok (.lda (.abx 0x20FF), []) ∧
  decode [0x99, 0x00, 0x02] = .ok (.sta (.aby 0x0200), []) ∧
  decode [0x6C, 0xFF, 0x30] = .ok (.jmp (.ind 0x30FF), []) ∧
  decode [0xA1, 0x20] = .ok (.lda (.izx 0x20), []) ∧
  decode [0xB1, 0x20] = .ok (.lda (.izy 0x20), []) ∧
  decode [0x20, 0x00, 0x90] = .ok (.jsr 0x9000, []) ∧
  decode [0x6D, 0x34, 0x12] = .ok (.adc (.abs 0x1234), []) ∧
  decode [0xE9, 0x10] = .ok (.sbc (.imm 0x10), []) ∧
  decode [0x25, 0x10] = .ok (.and (.zp0 0x10), []) ∧
  decode [0x1D, 0xFF, 0x02] = .ok (.ora (.abx 0x02FF), []) ∧
  decode [0x49, 0xFF] = .ok (.eor (.imm 0xFF), []) ∧
  decode [0x2C, 0x00, 0x02] = .ok (.bit (.abs 0x0200), []) ∧
  decode [0x46, 0x10] = .ok (.lsr (.zp0 0x10), []) ∧
  decode [0x2E, 0x00, 0x02] = .ok (.rol (.abs 0x0200), []) ∧
  decode [0x7E, 0xFF, 0x02] = .ok (.ror (.abx 0x02FF), []) ∧
  decode [0xD1, 0x86] = .ok (.cmp (.izy 0x86), []) ∧
  decode [0xE0, 0x05] = .ok (.cpx (.imm 0x05), []) ∧
  decode [0xCC, 0x34, 0x12] = .ok (.cpy (.abs 0x1234), []) ∧
  decode [0xE8] = .ok (.inx, []) ∧
  decode [0xAA] = .ok (.tax, []) ∧
  decode [0x98] = .ok (.tya, []) ∧
  decode [0x9A] = .ok (.txs, []) ∧
  decode [0x48] = .ok (.pha, []) ∧
  decode [0x08] = .ok (.php, []) ∧
  decode [0x68] = .ok (.pla, []) ∧
  decode [0x28] = .ok (.plp, []) ∧
  decode [0x00] = .ok (.brk, []) ∧
  decode [0x60] = .ok (.rts, []) ∧
  decode [0x40] = .ok (.rti, []) ∧
  decode [0xC6, 0x10] = .ok (.dec (.zp0 0x10), []) ∧
  decode [0x1A] = .ok (.nop 0x1A, []) ∧
  decode [0x02] = .ok (.xxx 0x02, [])

/-! The step. -/

/-- R100, R150 (the list of host calls is the model's, log 2): at an instruction boundary, when the host's next call is a system
tick that reaches the CPU, a step clocks the peripheral, fetches the bytes at PC, executes the instruction they encode, counts
CYC down by one and SYSCLK up by one. -/
def Obligations.StepRunsTheDecodedInstruction : Prop :=
  ∀ (s : State) (i : Instr), nextCall s = .clock → s.sysclk % 3 = 0 → s.cyc = 0 → i.wf = true →
    let ticked := periphClock { s with host := s.host.tail }
    (fetchBytes ticked).1 = encode i →
    ∃ t, exec i (fetchBytes ticked).2 = .next t ∧ step s = .next { t with cyc := t.cyc - 1, sysclk := t.sysclk + 1 }

/-- R100: one system tick clocks the peripheral first; it reaches the CPU exactly when SYSCLK mod 3 is 0, and a CPU tick with
CYC above 0 only counts (R153); SYSCLK counts up in every tick. -/
def Obligations.TickThatStartsNoInstruction : Prop :=
  ∀ s : State, nextCall s = .clock → (s.sysclk % 3 ≠ 0 ∨ s.cyc ≠ 0) →
    ∃ t, step s = .next t ∧ t.sysclk = s.sysclk + 1 ∧ t.cyc = (if s.sysclk % 3 = 0 then s.cyc - 1 else s.cyc) ∧
      t.host = s.host.tail ∧ t.cart = (periphClock s).cart ∧ IdleKept { s with host := s.host.tail } t

/-- R321: there are no faults. Whatever the state, the host's call and the bytes at PC, a step goes on. -/
def Obligations.NoStepStops : Prop := ∀ s : State, ∃ t, step s = .next t

/-- R153: an instruction of total `n` occupies exactly `n` CPU ticks. With no host event, after `k` CPU ticks from the boundary,
for every `k` from 1 to `n`, the machine is where the instruction left it and CYC is `n - k`; so the next boundary comes after
`n` CPU ticks. -/
def Obligations.InstructionTakesItsTotalOfTicks : Prop :=
  ∀ (s u : State) (i : Instr), s.host = [] → s.sysclk % 3 = 0 → s.cyc = 0 → i.wf = true →
    (fetchBytes (periphClock s)).1 = encode i → exec i (fetchBytes (periphClock s)).2 = .next u →
    2 ≤ u.cyc ∧
    ∀ k, 1 ≤ k → k ≤ u.cyc →
      ∃ t : State, core.run (3 * k) s = .next t ∧ t.cyc = u.cyc - k ∧ t.sysclk = s.sysclk + 3 * k ∧ IdleKept u t

/-! The invariant. -/

/-- The state after reset meets the invariant. Its cartridge and RAM contents are the model's choice (log 3, log 4). -/
def Obligations.ResetMeetsTheInvariant : Prop := State.reset.Inv

/-- R27, R33, R36, R37, R83: every step keeps the invariant. -/
def Obligations.EveryStepKeepsTheInvariant : Prop := ∀ s t : State, s.Inv → step s = .next t → t.Inv

/-- R365, R41 (the spec's decisions D21, D24): the launch state of an image that loads as valid. -/
def Obligations.LaunchState : Prop :=
  ∀ (image : List Byte) (ramInit chrRamInit : Memory),
    (Cartridge.load image chrRamInit).valid = true →
    ramInit.wf = true → ramInit.within 2048 = true → chrRamInit.wf = true → chrRamInit.within 8192 = true →
    let t := launch image ramInit chrRamInit
    t.a = 0x00 ∧ t.x = 0x00 ∧ t.y = 0x00 ∧ t.sp = 0xFD ∧ t.p = 0x20 ∧ t.cyc = 8 ∧ t.sysclk = 0 ∧
    t.ir = 0x00 ∧ t.ea = 0x0000 ∧ t.rel = 0x0000 ∧ t.m = 0x00 ∧ t.ram = ramInit ∧ t.cart = Cartridge.load image chrRamInit ∧
    t.pc = Addr.ofBytes (busValue 0xFFFC t) (busValue 0xFFFD t) ∧ t.Inv

/-- R362 (an inference the spec marks as its own): after a bus reset, with no further host event, 24 system ticks pass with no
architectural change, and then CYC is 0 and SYSCLK is 24; the 25th tick clocks the peripheral, fetches and executes the first
instruction and counts. -/
def Obligations.FirstInstructionAfterReset : Prop :=
  ∀ s : State, ∃ t : State, core.run 25 { s with host := [.busReset] } = .next t ∧
    t.cyc = 0 ∧ t.sysclk = 24 ∧ IdleKept (busReset { s with host := [] }) t ∧
    (∃ i u, decode (fetchBytes (periphClock t)).1 = .ok (i, []) ∧ exec i (fetchBytes (periphClock t)).2 = .next u ∧
      step t = .next { u with cyc := u.cyc - 1, sysclk := 25 }) ∧
    ∀ k, 1 ≤ k → k < 22 → ∃ u : State, core.run (k + 1) { s with host := [.busReset] } = .next u ∧ u.cyc ≠ 0

/-! The bus and the cartridge. -/

/-- R66: the 2 048 RAM bytes appear four times below 0x2000: a byte written at one of the four addresses is read at all four,
and at no other address outside the peripheral's window does anything change. -/
def Obligations.RamAppearsFourTimes : Prop :=
  ∀ (s : State) (k : Nat) (m n : Nat) (v : Byte), k < 2048 → m < 4 → n < 4 → s.ram.wf = true →
    let t := busWrite (BitVec.ofNat 16 (k + 2048 * m)) v s
    busValue (BitVec.ofNat 16 (k + 2048 * n)) t = v ∧
    busValue (BitVec.ofNat 16 (k + 2048 * n)) s = s.ram.read k ∧
    ∀ addr : Addr, inWindow addr = false → (addr.toNat < 8192 → addr.toNat % 2048 ≠ k) → busValue addr t = busValue addr s

/-- R64: who answers a read, by the decision order of the rule, for whatever the cartridge claims (the peripheral's answer is a
free value and the record of it is the model's, log 6); and R72: only a read in the
peripheral's window leaves anything behind. -/
def Obligations.BusReadOrder : Prop :=
  ∀ (addr : Addr) (s : State),
    (∀ off, s.cart.claimReadCpu addr = some off → busValue addr s = s.cart.prg.read off) ∧
    (s.cart.claimReadCpu addr = none →
      (addr.toNat ≤ 0x1FFF → busValue addr s = s.ram.read (addr.toNat % 2048)) ∧
      (0x2000 ≤ addr.toNat → addr.toNat ≤ 0x3FFF →
        busValue addr s = Config.periphAnswer s.draws s.periphLog (BitVec.ofNat 3 (addr.toNat % 8)) ∧
        afterRead addr s = { s with
          draws := s.draws + 1
          periphLog := .cpuRead (BitVec.ofNat 3 (addr.toNat % 8)) (busValue addr s) :: s.periphLog }) ∧
      (0x4000 ≤ addr.toNat → busValue addr s = 0x00)) ∧
    (inWindow addr = false → afterRead addr s = s)

/-- R65, R70, R85: a write changes RAM only where the cartridge does not claim the address and it is below 0x2000, is recorded in
the peripheral's window (log 6), and is discarded everywhere else; no register and no cartridge byte changes. -/
def Obligations.BusWriteOrder : Prop :=
  ∀ (addr : Addr) (v : Byte) (s : State),
    (∀ off, s.cart.claimWriteCpu addr = some off → busWrite addr v s = s) ∧
    (s.cart.claimWriteCpu addr = none →
      (addr.toNat ≤ 0x1FFF → busWrite addr v s = { s with ram := s.ram.write (addr.toNat % 2048) v }) ∧
      (0x2000 ≤ addr.toNat → addr.toNat ≤ 0x3FFF →
        busWrite addr v s = { s with periphLog := .cpuWrite (BitVec.ofNat 3 (addr.toNat % 8)) v :: s.periphLog }) ∧
      (0x4000 ≤ addr.toNat → busWrite addr v s = s))

/-- R87: NROM maps 0x8000 to 0xFFFF to PRG, by the mask 0x7FFF with more than one bank and 0x3FFF with one; so a one-bank image
appears twice. -/
def Obligations.NromProgramWindow : Prop :=
  ∀ (s : State) (addr : Addr), s.cart.valid = true → s.cart.mapperId = 0x00 →
    (addr < 0x8000#16 → s.cart.claimReadCpu addr = none ∧ s.cart.claimWriteCpu addr = none) ∧
    (0x8000#16 ≤ addr →
      s.cart.claimWriteCpu addr = s.cart.claimReadCpu addr ∧
      (s.cart.header.prgChunks.toNat > 1 → s.cart.claimReadCpu addr = some (addr.toNat - 0x8000) ∧
        busValue addr s = s.cart.prg.read (addr.toNat - 0x8000)) ∧
      (s.cart.header.prgChunks.toNat ≤ 1 → s.cart.claimReadCpu addr = some (addr.toNat % 0x4000) ∧
        busValue addr s = s.cart.prg.read (addr.toNat % 0x4000)))

/-- R88, R90, R91: the peripheral side of a valid NROM cartridge: reads of 0x0000 to 0x1FFF are CHR bytes, writes there are
claimed only when CHR is RAM, and nothing but that CHR byte changes; every other access is unclaimed. -/
def Obligations.NromCharacterWindow : Prop :=
  ∀ (c : Cartridge) (addr : Addr) (v : Byte), c.valid = true → c.mapperId = 0x00 →
    (addr ≤ 0x1FFF#16 → c.readPpu addr = some (c.chr.read addr.toNat)) ∧
    (0x1FFF#16 < addr → c.readPpu addr = none) ∧
    (c.claimsWritePpu addr = true ↔ addr ≤ 0x1FFF#16 ∧ c.header.chrChunks = 0x00) ∧
    (c.claimsWritePpu addr = false → c.writePpu addr v = c) ∧
    (c.claimsWritePpu addr = true →
      c.writePpu addr v = { c with chr := c.chr.write addr.toNat v } ∧
      (c.chr.wf = true → (c.writePpu addr v).readPpu addr = some v) ∧
      ∀ other, other ≠ addr → (c.writePpu addr v).readPpu other = c.readPpu other)

/-- R92 (D23, log 15): an invalid cartridge answers false to every access, so every CPU address from 0x4000 on is open bus and a
reset starts at 0x0000. -/
def Obligations.InvalidCartridgeClaimsNothing : Prop :=
  ∀ (s : State) (addr : Addr) (v : Byte), s.cart.valid = false →
    s.cart.claimReadCpu addr = none ∧ s.cart.claimWriteCpu addr = none ∧
    s.cart.readPpu addr = none ∧ s.cart.claimsWritePpu addr = false ∧ s.cart.writePpu addr v = s.cart ∧
    (0x4000#16 ≤ addr → busValue addr s = 0x00) ∧ (busReset s).pc = 0x0000

/-- R81 to R83: what loading an image makes: bank counts, trainer, mapper id, PRG and CHR bytes; it is valid exactly when the
image is long enough, the mapper id is 0 and there is a PRG bank (D24). R81 gives an image of fewer than 16 bytes no mapper id;
that it has one here, from its bytes and 0x00 for missing ones, is the model's choice (log 21). -/
def Obligations.LoadingAnImage : Prop :=
  ∀ (image : List Byte) (chrRamInit : Memory),
    let c := Cartridge.load image chrRamInit
    let prgBanks := (image.getD 4 0).toNat
    let chrBanks := (image.getD 5 0).toNat
    let p0 := if (image.getD 6 0).getLsbD 2 then 528 else 16
    let c0 := p0 + prgBanks * 16384
    c.mapperId.toNat = ((image.getD 7 0).toNat / 16) * 16 + (image.getD 6 0).toNat / 16 ∧
    (c.valid = true ↔
      16 ≤ image.length ∧ c0 + chrBanks * 8192 ≤ image.length ∧ c.mapperId = 0x00 ∧ prgBanks ≠ 0) ∧
    (c.valid = true →
      (∀ k, k < prgBanks * 16384 → c.prg.read k = image.getD (p0 + k) 0) ∧
      (∀ k, k < chrBanks * 8192 → c.chr.read k = image.getD (c0 + k) 0) ∧
      (chrBanks = 0 → c.chr = chrRamInit) ∧
      c.header.prgChunks.toNat = prgBanks ∧ c.header.chrChunks.toNat = chrBanks)

/-- R345, R18: the peripheral's clock may change CHR-RAM and its own record (log 6, log 7), and nothing else; CHR-ROM, PRG and
the header never change. -/
def Obligations.PeripheralTickTouchesOnlyCharacterRam : Prop :=
  ∀ s : State, ∃ chr log,
    periphClock s = { s with cart := { s.cart with chr := chr }, draws := s.draws + 1, periphLog := log ++ .clocked :: s.periphLog } ∧
    (s.cart.valid = false ∨ s.cart.header.chrChunks ≠ 0x00 → chr = s.cart.chr) ∧
    ∀ k, 0x1FFF < k → chr.read k = s.cart.chr.read k

/-- R108 (an inference the spec marks as its own): a byte stored in RAM is the byte the next fetch from that address, or a
mirror of it, takes as its opcode. -/
def Obligations.StoreIsSeenByTheNextFetch : Prop :=
  ∀ (s : State) (addr : Addr) (v : Byte), s.ram.wf = true → addr ≤ 0x1FFF#16 → sameRamByte addr s.pc →
    ∃ i rest, (fetchBytes (busWrite addr v s)).1 = v :: rest ∧ decode (v :: rest) = .ok (i, []) ∧ i.opcode? = some v

/-! Reset and exceptions. -/

/-- R371: an irq while P.I is 1 does nothing and leaves no trace. -/
def Obligations.MaskedIrqIsLost : Prop :=
  ∀ (s : State) (rest : List HostCall), s.host = .irq :: rest → getFlag s.p .i = true → step s = .next { s with host := rest }

/-- R325, R326 (D12): an unmasked irq pushes PC high, PC low and the status with B cleared and U set, sets I, clears B in P,
loads PC from 0xFFFE and CYC with 7 (D12), and changes nothing else. -/
def Obligations.IrqEntry : Prop :=
  ∀ (s : State) (rest : List HostCall), s.host = .irq :: rest → getFlag s.p .i = false → s.ram.wf = true →
    ∃ t, step s = .next t ∧
      t = { s with
        sp := s.sp - 3
        p := (s.p &&& 0xEF#8) ||| 0x24#8
        pc := vectorWord s 0xFFFE
        cyc := 7
        ram := t.ram
        host := rest } ∧
      PushedThree s.pc.high s.pc.low ((s.p &&& 0xEF#8) ||| 0x20#8) s t

/-- R325, R327: an nmi does the same whatever I holds, with the vector at 0xFFFA and CYC 8 (D12). -/
def Obligations.NmiEntry : Prop :=
  ∀ (s : State) (rest : List HostCall), s.host = .nmi :: rest → s.ram.wf = true →
    ∃ t, step s = .next t ∧
      t = { s with
        sp := s.sp - 3
        p := (s.p &&& 0xEF#8) ||| 0x24#8
        pc := vectorWord s 0xFFFA
        cyc := 8
        ram := t.ram
        host := rest } ∧
      PushedThree s.pc.high s.pc.low ((s.p &&& 0xEF#8) ||| 0x20#8) s t

/-- R324, R101: the CPU's reset writes every register, latch and CYC, reads the vector, and touches no memory and not SYSCLK; the
bus reset zeroes SYSCLK too. -/
def Obligations.ResetWritesEveryRegister : Prop :=
  ∀ (s : State) (rest : List HostCall),
    let after := { s with
      a := 0x00, x := 0x00, y := 0x00, sp := 0xFD, p := 0x20, pc := vectorWord s 0xFFFC
      ir := 0x00, ea := 0x0000, rel := 0x0000, m := 0x00, cyc := 8, host := rest }
    (s.host = .cpuReset :: rest → step s = .next after) ∧
    (s.host = .busReset :: rest → step s = .next { after with sysclk := 0 })

/-- R260: BRK pushes its address plus 2, high byte first, and the status with bits 4 and 5 set, then clears B, sets I and loads
PC from 0xFFFE (D7); it is masked by nothing and changes nothing else. -/
def Obligations.BrkEntry : Prop :=
  ∀ s : State, s.ram.wf = true →
    ∃ t, exec .brk s = .next t ∧
      t = { impliedDone .brk t.cyc s with
        sp := s.sp - 3
        p := (s.p &&& 0xEF#8) ||| 0x04#8
        pc := vectorWord s 0xFFFE
        ram := t.ram } ∧
      PushedThree (s.pc + 2).high (s.pc + 2).low (s.p ||| 0x30#8) s t

/-- R268: RTI pulls the status (B cleared, U set; D11), then PC low and PC high, and changes nothing else. -/
def Obligations.RtiPullsStatusAndPc : Prop :=
  ∀ s : State, ∃ t, exec .rti s = .next t ∧
    t = { impliedDone .rti t.cyc s with
      sp := s.sp + 3
      p := (stackByte s (s.sp + 1) &&& 0xEF#8) ||| 0x20#8
      pc := Addr.ofBytes (stackByte s (s.sp + 2)) (stackByte s (s.sp + 3)) } ∧
    MemoryKept s t

/-- R332: an RTI run when SP and the three pushed bytes are as the entry left them (below them the handler may have pushed and
pulled) restores C, Z, I, D, V, N, PC and SP to their values at
the irq or nmi; after BRK it resumes at the address of BRK plus 2 (R373). -/
def Obligations.RtiUndoesAnEntry : Prop :=
  ∀ s u : State, s.ram.wf = true →
    (u.sp = (interruptEntry irqVector 7 s).sp → StackedBytesKept 3 (interruptEntry irqVector 7 s) u →
      ∃ t, exec .rti u = .next t ∧ t.pc = s.pc ∧ t.sp = s.sp ∧ t.p = (s.p &&& 0xEF#8) ||| 0x20#8 ∧
        t.a = u.a ∧ t.x = u.x ∧ t.y = u.y ∧ t.ram = u.ram) ∧
    (u.sp = (nmi s).sp → StackedBytesKept 3 (nmi s) u →
      ∃ t, exec .rti u = .next t ∧ t.pc = s.pc ∧ t.sp = s.sp ∧ t.p = (s.p &&& 0xEF#8) ||| 0x20#8 ∧
        t.a = u.a ∧ t.x = u.x ∧ t.y = u.y ∧ t.ram = u.ram) ∧
    (∀ e, exec .brk s = .next e → u.sp = e.sp → StackedBytesKept 3 e u →
      ∃ t, exec .rti u = .next t ∧ t.pc = s.pc + 2 ∧ t.sp = s.sp ∧ t.p = (s.p &&& 0xEF#8) ||| 0x20#8 ∧
        t.a = u.a ∧ t.x = u.x ∧ t.y = u.y ∧ t.ram = u.ram)

/-- R374: BRK and irq share a vector, and on handler entry bit 4 of the stacked status tells them apart, while the live B is 0 in
both cases. -/
def Obligations.StackedBreakBitTellsBrkFromIrq : Prop :=
  ∀ s : State, s.ram.wf = true → getFlag s.p .i = false →
    ∃ t, exec .brk s = .next t ∧ t.pc = (irq s).pc ∧ t.sp = (irq s).sp ∧
      (stackByte t (t.sp + 1)).getLsbD 4 = true ∧ (stackByte (irq s) ((irq s).sp + 1)).getLsbD 4 = false ∧
      getFlag t.p .b = false ∧ getFlag (irq s).p .b = false

/-! Arithmetic and logic. -/

/-- R190: ADC. The result is the sum modulo 2^8, C the carry out, V the sign-agreement formula (which is two's-complement
overflow, R193), Z and N from the result; nothing else changes. -/
def Obligations.AdcAddsWithCarry : Prop :=
  ∀ (o : Operand) (s : State), (Instr.adc o).wf = true →
    let m := operandByte (.adc o) o s
    let carry : Nat := if getFlag s.p .c then 1 else 0
    let r := BitVec.ofNat 8 (s.a.toNat + m.toNat + carry)
    ∃ t, exec (.adc o) s = .next t ∧ t = { operandDone (.adc o) o t.cyc s with a := r, p := t.p } ∧
      getFlag t.p .c = decide (256 ≤ s.a.toNat + m.toNat + carry) ∧
      getFlag t.p .z = decide (r = 0) ∧
      getFlag t.p .v = decide ((~~~(s.a ^^^ m)) &&& (s.a ^^^ r) &&& 0x80#8 ≠ 0#8) ∧
      getFlag t.p .v = decide (s.a.toInt + m.toInt + carry < -128 ∨ 127 < s.a.toInt + m.toInt + carry) ∧
      getFlag t.p .n = r.getLsbD 7 ∧
      FlagsKept s.p t.p [.c, .z, .v, .n] ∧ MemoryKept s t

/-- R191: SBC. The result is `A - m - (1 - C)` modulo 2^8, C is 1 exactly when there is no borrow, V is the sign-agreement formula
of the complemented operand (which is two's-complement overflow, R193), Z and N from the result; nothing else changes. -/
def Obligations.SbcSubtractsWithBorrow : Prop :=
  ∀ (o : Operand) (s : State), (Instr.sbc o).wf = true →
    let m := operandByte (.sbc o) o s
    let borrow : Nat := if getFlag s.p .c then 0 else 1
    let r := BitVec.ofInt 8 ((s.a.toNat : Int) - m.toNat - borrow)
    ∃ t, exec (.sbc o) s = .next t ∧ t = { operandDone (.sbc o) o t.cyc s with a := r, p := t.p } ∧
      getFlag t.p .c = decide (m.toNat + borrow ≤ s.a.toNat) ∧
      getFlag t.p .z = decide (r = 0) ∧
      getFlag t.p .v = decide ((s.a ^^^ m) &&& (s.a ^^^ r) &&& 0x80#8 ≠ 0#8) ∧
      getFlag t.p .v = decide (s.a.toInt - m.toInt - borrow < -128 ∨ 127 < s.a.toInt - m.toInt - borrow) ∧
      getFlag t.p .n = r.getLsbD 7 ∧
      FlagsKept s.p t.p [.c, .z, .v, .n] ∧ MemoryKept s t

/-- R192 (D13): the Decimal flag does not change arithmetic: from two states that differ only in D, ADC and SBC reach states that
differ only in D. -/
def Obligations.DecimalFlagChangesNoArithmetic : Prop :=
  ∀ (o : Operand) (s : State) (d : Bool),
    ((Instr.adc o).wf = true → ∃ t, exec (.adc o) s = .next t ∧
      exec (.adc o) { s with p := putFlag s.p .d d } = .next { t with p := putFlag t.p .d d }) ∧
    ((Instr.sbc o).wf = true → ∃ t, exec (.sbc o) s = .next t ∧
      exec (.sbc o) { s with p := putFlag s.p .d d } = .next { t with p := putFlag t.p .d d })

/-- R200, R201, R202: AND, ORA and EOR put the bitwise result into A, Z and N from it; nothing else changes. -/
def Obligations.LogicalOperations : Prop :=
  ∀ (o : Operand) (s : State),
    ((Instr.and o).wf = true → ∃ t, exec (.and o) s = .next t ∧
      t = { operandDone (.and o) o t.cyc s with a := s.a &&& operandByte (.and o) o s, p := t.p } ∧
      ZeroNegativeFrom (s.a &&& operandByte (.and o) o s) s.p t.p ∧ MemoryKept s t) ∧
    ((Instr.ora o).wf = true → ∃ t, exec (.ora o) s = .next t ∧
      t = { operandDone (.ora o) o t.cyc s with a := s.a ||| operandByte (.ora o) o s, p := t.p } ∧
      ZeroNegativeFrom (s.a ||| operandByte (.ora o) o s) s.p t.p ∧ MemoryKept s t) ∧
    ((Instr.eor o).wf = true → ∃ t, exec (.eor o) s = .next t ∧
      t = { operandDone (.eor o) o t.cyc s with a := s.a ^^^ operandByte (.eor o) o s, p := t.p } ∧
      ZeroNegativeFrom (s.a ^^^ operandByte (.eor o) o s) s.p t.p ∧ MemoryKept s t)

/-- R203 (the spec's own decision D8, log 10): BIT sets Z from `A & m` and copies bits 7 and 6 of the operand to N and V; A and
everything else is kept. -/
def Obligations.BitTest : Prop :=
  ∀ (o : Operand) (s : State), (Instr.bit o).wf = true →
    ∃ t, exec (.bit o) s = .next t ∧ t = { operandDone (.bit o) o t.cyc s with p := t.p } ∧
      getFlag t.p .z = decide (s.a &&& operandByte (.bit o) o s = 0) ∧
      getFlag t.p .n = (operandByte (.bit o) o s).getLsbD 7 ∧
      getFlag t.p .v = (operandByte (.bit o) o s).getLsbD 6 ∧
      FlagsKept s.p t.p [.z, .n, .v] ∧ MemoryKept s t

/-- R214 with the `f` of R210 to R213, accumulator form: the result goes to A, C is the bit shifted out, Z and N from the result;
nothing else changes. -/
def Obligations.ShiftsOfTheAccumulator : Prop :=
  ∀ s : State,
    let carry : Nat := if getFlag s.p .c then 1 else 0
    let shifted := fun (i : Operand → Instr) (r : Byte) (out : Bool) =>
      ∃ t, exec (i .acc) s = .next t ∧ t = { impliedDone (i .acc) t.cyc s with a := r, p := t.p } ∧
        CarryZeroNegativeFrom out r s.p t.p ∧ MemoryKept s t
    shifted .asl (BitVec.ofNat 8 (2 * s.a.toNat)) (s.a.getLsbD 7) ∧
    shifted .lsr (BitVec.ofNat 8 (s.a.toNat / 2)) (s.a.getLsbD 0) ∧
    shifted .rol (BitVec.ofNat 8 (2 * s.a.toNat + carry)) (s.a.getLsbD 7) ∧
    shifted .ror (BitVec.ofNat 8 (s.a.toNat / 2 + 128 * carry)) (s.a.getLsbD 0)

/-- R214 with the `f` of R210 to R213, memory forms: the byte at the operand's address is read once and written once with the
result; C is the bit shifted out, Z and N from the result; A and everything else is kept. -/
def Obligations.ShiftsOfMemory : Prop :=
  ∀ (o : Operand) (s : State), o ≠ .acc →
    let carry : Nat := if getFlag s.p .c then 1 else 0
    let shifted := fun (i : Operand → Instr) (r : Byte) (out : Bool) =>
      (i o).wf = true → ∃ t, exec (i o) s = .next t ∧
        t = { operandDone (i o) o t.cyc s with p := t.p, ram := t.ram, periphLog := t.periphLog } ∧
        CarryZeroNegativeFrom out r s.p t.p ∧ StoredAt (operandAddr (i o) o s) r (fetched (i o) o s).periphLog s t
    shifted .asl (BitVec.ofNat 8 (2 * (operandByte (.asl o) o s).toNat)) ((operandByte (.asl o) o s).getLsbD 7) ∧
    shifted .lsr (BitVec.ofNat 8 ((operandByte (.lsr o) o s).toNat / 2)) ((operandByte (.lsr o) o s).getLsbD 0) ∧
    shifted .rol (BitVec.ofNat 8 (2 * (operandByte (.rol o) o s).toNat + carry)) ((operandByte (.rol o) o s).getLsbD 7) ∧
    shifted .ror (BitVec.ofNat 8 ((operandByte (.ror o) o s).toNat / 2 + 128 * carry)) ((operandByte (.ror o) o s).getLsbD 0)

/-- R229, for R220 to R222: a compare sets C when the register is at least the operand (unsigned), Z and N from the wrapped
difference; no register, no memory byte and no other flag changes, and the prior Carry is no input. -/
def Obligations.CompareIsUnsigned : Prop :=
  ∀ (o : Operand) (s : State),
    let compared := fun (i : Operand → Instr) (reg : Byte) =>
      (i o).wf = true → ∃ t, exec (i o) s = .next t ∧ t = { operandDone (i o) o t.cyc s with p := t.p } ∧
        CarryZeroNegativeFrom (decide ((operandByte (i o) o s).toNat ≤ reg.toNat))
          (BitVec.ofInt 8 ((reg.toNat : Int) - (operandByte (i o) o s).toNat)) s.p t.p ∧
        (getFlag t.p .z = true ↔ reg = operandByte (i o) o s) ∧ MemoryKept s t
    compared .cmp s.a ∧ compared .cpx s.x ∧ compared .cpy s.y

/-- R223, R224: INC and DEC read the operand's byte once and write it once, plus or minus 1 modulo 2^8, Z and N from the result;
no register and no other flag changes. -/
def Obligations.IncrementAndDecrementMemory : Prop :=
  ∀ (o : Operand) (s : State),
    let changed := fun (i : Operand → Instr) (r : Byte) =>
      (i o).wf = true → ∃ t, exec (i o) s = .next t ∧
        t = { operandDone (i o) o t.cyc s with p := t.p, ram := t.ram, periphLog := t.periphLog } ∧
        ZeroNegativeFrom r s.p t.p ∧ StoredAt (operandAddr (i o) o s) r (fetched (i o) o s).periphLog s t
    changed .inc (BitVec.ofNat 8 ((operandByte (.inc o) o s).toNat + 1)) ∧
    changed .dec (BitVec.ofNat 8 ((operandByte (.dec o) o s).toNat + 255))

/-- R225 to R228: INX, INY, DEX and DEY change their register by 1 modulo 2^8, Z and N from the result; nothing else changes. -/
def Obligations.IncrementAndDecrementRegisters : Prop :=
  ∀ s : State,
    (∃ t, exec .inx s = .next t ∧ t = { impliedDone .inx t.cyc s with x := BitVec.ofNat 8 (s.x.toNat + 1), p := t.p } ∧
      ZeroNegativeFrom (BitVec.ofNat 8 (s.x.toNat + 1)) s.p t.p ∧ MemoryKept s t) ∧
    (∃ t, exec .iny s = .next t ∧ t = { impliedDone .iny t.cyc s with y := BitVec.ofNat 8 (s.y.toNat + 1), p := t.p } ∧
      ZeroNegativeFrom (BitVec.ofNat 8 (s.y.toNat + 1)) s.p t.p ∧ MemoryKept s t) ∧
    (∃ t, exec .dex s = .next t ∧ t = { impliedDone .dex t.cyc s with x := BitVec.ofNat 8 (s.x.toNat + 255), p := t.p } ∧
      ZeroNegativeFrom (BitVec.ofNat 8 (s.x.toNat + 255)) s.p t.p ∧ MemoryKept s t) ∧
    (∃ t, exec .dey s = .next t ∧ t = { impliedDone .dey t.cyc s with y := BitVec.ofNat 8 (s.y.toNat + 255), p := t.p } ∧
      ZeroNegativeFrom (BitVec.ofNat 8 (s.y.toNat + 255)) s.p t.p ∧ MemoryKept s t)

/-! Control flow and the stack. -/

/-- R166, R240 to R248 (D32): each branch goes to the next instruction's address plus the signed offset when its flag has the
tested value, else to the next instruction; REL takes the sign-extended offset, EA the target of a taken branch (log 22), and no
flag, no register but PC and no memory byte changes. -/
def Obligations.BranchesFollowTheirFlag : Prop :=
  ∀ (rel8 : Byte) (s : State),
    let branches := fun (i : Byte → Instr) (taken : Bool) =>
      ∃ t, exec (i rel8) s = .next t ∧
        t = { s with
          ir := (i rel8).opcode?.getD 0
          rel := BitVec.ofInt 16 rel8.toInt
          ea := if taken then branchGoal rel8 s else s.ea
          pc := if taken then branchGoal rel8 s else s.pc + 2
          cyc := t.cyc } ∧ MemoryKept s t
    branches .bcc (!s.p.getLsbD 0) ∧ branches .bcs (s.p.getLsbD 0) ∧
    branches .bne (!s.p.getLsbD 1) ∧ branches .beq (s.p.getLsbD 1) ∧
    branches .bpl (!s.p.getLsbD 7) ∧ branches .bmi (s.p.getLsbD 7) ∧
    branches .bvc (!s.p.getLsbD 6) ∧ branches .bvs (s.p.getLsbD 6)

/-- R261, R262 (D9): PHA pushes A and PHP pushes the status with bits 4 and 5 set; SP goes down by 1, wrapping inside page 0x01;
no other byte, no flag and no other register changes. -/
def Obligations.PushInstructions : Prop :=
  ∀ s : State,
    (∃ t, exec .pha s = .next t ∧ t = { impliedDone .pha t.cyc s with sp := s.sp - 1, ram := t.ram } ∧
      StoredAt (0x0100 + s.sp.setWidth 16) s.a s.periphLog s t) ∧
    (∃ t, exec .php s = .next t ∧ t = { impliedDone .php t.cyc s with sp := s.sp - 1, ram := t.ram } ∧
      StoredAt (0x0100 + s.sp.setWidth 16) (s.p ||| 0x30#8) s.periphLog s t)

/-- R263, R264 (D10): PLA pulls A, Z and N from it; PLP pulls all of P with bit 5 forced to 1; SP goes up by 1, wrapping;
nothing else changes. -/
def Obligations.PullInstructions : Prop :=
  ∀ s : State,
    (∃ t, exec .pla s = .next t ∧
      t = { impliedDone .pla t.cyc s with a := stackByte s (s.sp + 1), sp := s.sp + 1, p := t.p } ∧
      ZeroNegativeFrom (stackByte s (s.sp + 1)) s.p t.p ∧ MemoryKept s t) ∧
    (∃ t, exec .plp s = .next t ∧
      t = { impliedDone .plp t.cyc s with sp := s.sp + 1, p := stackByte s (s.sp + 1) ||| 0x20#8 } ∧ MemoryKept s t)

/-- R265, R170, R372: JMP takes PC from its operand, or from the pointer it names; the pointer's high byte comes from the same
page when the pointer's low byte is 0xFF; low byte read first (D15); nothing else changes. -/
def Obligations.Jumps : Prop :=
  ∀ (a : Addr) (s : State),
    let next := if a.toNat % 256 = 255 then a - 255 else a + 1
    (∃ t, exec (.jmp (.abs a)) s = .next t ∧ t = { s with ir := 0x4C, ea := a, pc := a, cyc := t.cyc } ∧ MemoryKept s t) ∧
    (∃ t, exec (.jmp (.ind a)) s = .next t ∧
      t = { afterRead next (afterRead a s) with
        ir := 0x6C
        ea := Addr.ofBytes (busValue a s) (busValue next (afterRead a s))
        pc := Addr.ofBytes (busValue a s) (busValue next (afterRead a s))
        cyc := t.cyc } ∧
      (inWindow a = false → inWindow next = false →
        t = { s with
          ir := 0x6C
          ea := Addr.ofBytes (busValue a s) (busValue next s)
          pc := Addr.ofBytes (busValue a s) (busValue next s)
          cyc := t.cyc }) ∧ MemoryKept s t)

/-- R266, R267 (D10): JSR pushes the address of its own last byte, high byte first, and jumps; RTS pulls low and high and adds 1;
nothing else changes. -/
def Obligations.CallAndReturn : Prop :=
  (∀ (target : Addr) (s : State), s.ram.wf = true →
    ∃ t, exec (.jsr target) s = .next t ∧
      t = { s with ir := 0x20, ea := target, pc := target, sp := s.sp - 2, cyc := t.cyc, ram := t.ram } ∧
      stackByte t s.sp = (s.pc + 2).high ∧ stackByte t (s.sp - 1) = (s.pc + 2).low ∧
      ∀ addr, inWindow addr = false → ¬ sameRamByte (0x0100 + s.sp.setWidth 16) addr →
        ¬ sameRamByte (0x0100 + (s.sp - 1).setWidth 16) addr → busValue addr t = busValue addr s) ∧
  (∀ s : State, ∃ t, exec .rts s = .next t ∧
    t = { impliedDone .rts t.cyc s with
      sp := s.sp + 2
      pc := Addr.ofBytes (stackByte s (s.sp + 1)) (stackByte s (s.sp + 2)) + 1 } ∧
    MemoryKept s t)

/-- R266, R267 (D10): an RTS run with the stack pointer and the two pushed bytes as a JSR left them goes to the instruction after
the JSR and restores SP, whatever the subroutine pushed and pulled below them. -/
def Obligations.RtsReturnsAfterTheJsr : Prop :=
  ∀ (target : Addr) (s t u : State), s.ram.wf = true → exec (.jsr target) s = .next t → u.sp = t.sp →
    StackedBytesKept 2 t u →
    ∃ v, exec .rts u = .next v ∧ v.pc = s.pc + 3 ∧ v.sp = s.sp

/-! Moves and flags. -/

/-- R280 to R282: a load moves the operand into its register, Z and N from it; nothing else changes. -/
def Obligations.Loads : Prop :=
  ∀ (o : Operand) (s : State),
    ((Instr.lda o).wf = true → ∃ t, exec (.lda o) s = .next t ∧
      t = { operandDone (.lda o) o t.cyc s with a := operandByte (.lda o) o s, p := t.p } ∧
      ZeroNegativeFrom (operandByte (.lda o) o s) s.p t.p ∧ MemoryKept s t) ∧
    ((Instr.ldx o).wf = true → ∃ t, exec (.ldx o) s = .next t ∧
      t = { operandDone (.ldx o) o t.cyc s with x := operandByte (.ldx o) o s, p := t.p } ∧
      ZeroNegativeFrom (operandByte (.ldx o) o s) s.p t.p ∧ MemoryKept s t) ∧
    ((Instr.ldy o).wf = true → ∃ t, exec (.ldy o) s = .next t ∧
      t = { operandDone (.ldy o) o t.cyc s with y := operandByte (.ldy o) o s, p := t.p } ∧
      ZeroNegativeFrom (operandByte (.ldy o) o s) s.p t.p ∧ MemoryKept s t)

/-- R283 to R285: a store writes its register to the operand's address, reads nothing there, and changes no register, no flag and
no other byte. -/
def Obligations.Stores : Prop :=
  ∀ (o : Operand) (s : State),
    let stores := fun (i : Operand → Instr) (v : Byte) =>
      (i o).wf = true → ∃ t, exec (i o) s = .next t ∧
        t = { addressDone (i o) o t.cyc s with ram := t.ram, periphLog := t.periphLog } ∧
        StoredAt (operandAddr (i o) o s) v s.periphLog s t
    stores .sta s.a ∧ stores .stx s.x ∧ stores .sty s.y

/-- R286 to R291: each transfer copies its source register; all but TXS set Z and N from the moved value; TXS writes no flag;
nothing else changes. -/
def Obligations.Transfers : Prop :=
  ∀ s : State,
    (∃ t, exec .tax s = .next t ∧ t = { impliedDone .tax t.cyc s with x := s.a, p := t.p } ∧
      ZeroNegativeFrom s.a s.p t.p ∧ MemoryKept s t) ∧
    (∃ t, exec .tay s = .next t ∧ t = { impliedDone .tay t.cyc s with y := s.a, p := t.p } ∧
      ZeroNegativeFrom s.a s.p t.p ∧ MemoryKept s t) ∧
    (∃ t, exec .txa s = .next t ∧ t = { impliedDone .txa t.cyc s with a := s.x, p := t.p } ∧
      ZeroNegativeFrom s.x s.p t.p ∧ MemoryKept s t) ∧
    (∃ t, exec .tya s = .next t ∧ t = { impliedDone .tya t.cyc s with a := s.y, p := t.p } ∧
      ZeroNegativeFrom s.y s.p t.p ∧ MemoryKept s t) ∧
    (∃ t, exec .tsx s = .next t ∧ t = { impliedDone .tsx t.cyc s with x := s.sp, p := t.p } ∧
      ZeroNegativeFrom s.sp s.p t.p ∧ MemoryKept s t) ∧
    (∃ t, exec .txs s = .next t ∧ t = { impliedDone .txs t.cyc s with sp := s.x } ∧ MemoryKept s t)

/-- R300 to R306: each flag instruction writes exactly one bit of P and touches no other state. -/
def Obligations.FlagInstructions : Prop :=
  ∀ s : State,
    let writes := fun (i : Instr) (f : Flag) (v : Bool) =>
      ∃ t, exec i s = .next t ∧ t = { impliedDone i t.cyc s with p := t.p } ∧ OneFlagWritten f v s.p t.p ∧ MemoryKept s t
    writes .clc .c false ∧ writes .cld .d false ∧ writes .cli .i false ∧ writes .clv .v false ∧
    writes .sec .c true ∧ writes .sed .d true ∧ writes .sei .i true

/-- R307 to R309, under the default UNDOC_TABLE (log 9): NOP and the XXX fallback advance PC by 1 and have no other effect on
registers, flags or memory; no trap, no halt. -/
def Obligations.NopAndXxxHaveNoEffect : Prop :=
  ∀ (b : Byte) (s : State),
    ((Instr.nop b).wf = true → ∃ t, exec (.nop b) s = .next t ∧ t = impliedDone (.nop b) t.cyc s ∧ MemoryKept s t) ∧
    ((Instr.xxx b).wf = true → ∃ t, exec (.xxx b) s = .next t ∧ t = impliedDone (.xxx b) t.cyc s ∧ MemoryKept s t)

/-- R151, R173, R240 with the cycle columns of the instruction rules (the spec's decisions D2, D3, D32; log 10, log 9): every
well-formed instruction executes and loads CYC with its total. -/
def Obligations.CycleTotals : Prop :=
  ∀ (i : Instr) (s : State), i.wf = true → ∃ t, exec i s = .next t ∧ t.cyc = cycleCount i s

/-! Operands. -/

/-- R163 to R165, R376: zero-page operands, indexed with 8-bit wrap; the byte is in page zero, and no other access is made. -/
def Obligations.ZeroPageOperands : Prop :=
  ∀ (i : Instr) (zp : Byte) (s : State),
    let at_ := fun (o : Operand) (k : Nat) =>
      operandAddr i o s = BitVec.ofNat 16 (k % 256) ∧ operandByte i o s = s.ram.read (k % 256) ∧
      (fetched i o s).draws = s.draws ∧ (fetched i o s).periphLog = s.periphLog
    at_ (.zp0 zp) zp.toNat ∧ at_ (.zpx zp) (zp.toNat + s.x.toNat) ∧ at_ (.zpy zp) (zp.toNat + s.y.toNat)

/-- R167 to R169: absolute operands, indexed with 16-bit wrap; the one operand read is at the effective address. -/
def Obligations.AbsoluteOperands : Prop :=
  ∀ (i : Instr) (base : Addr) (s : State),
    let at_ := fun (o : Operand) (k : Nat) =>
      operandAddr i o s = BitVec.ofNat 16 k ∧ operandByte i o s = busValue (BitVec.ofNat 16 k) s ∧
      (fetched i o s).draws = (afterRead (BitVec.ofNat 16 k) s).draws ∧
      (fetched i o s).periphLog = (afterRead (BitVec.ofNat 16 k) s).periphLog ∧
      (resolverBonus o (entered i s) = true ↔ Addr.high (BitVec.ofNat 16 k) ≠ base.high)
    at_ (.abs base) base.toNat ∧ at_ (.abx base) (base.toNat + s.x.toNat) ∧ at_ (.aby base) (base.toNat + s.y.toNat)

/-- R162, R161 (D6): the immediate operand is the instruction's own second byte, at the address after the opcode; the accumulator
form's operand is A; neither reads memory again. -/
def Obligations.ImmediateAndAccumulatorOperands : Prop :=
  ∀ (i : Instr) (v : Byte) (s : State),
    (i.length = 2 → operandAddr i (.imm v) s = s.pc + 1) ∧ operandByte i (.imm v) s = v ∧
    operandByte i .acc s = s.a ∧ operandAddr i .acc s = s.ea ∧
    (∀ o, o = .imm v ∨ o = .acc → (fetched i o s).draws = s.draws ∧ (fetched i o s).periphLog = s.periphLog)

/-- R171, R172, R376 (D14): the pointer of an indexed indirect operand lies in page zero, both bytes wrapping there; IZX indexes
the pointer with X, IZY the target with Y, and only IZY reports a page cross. -/
def Obligations.PointerOperands : Prop :=
  ∀ (i : Instr) (zp : Byte) (s : State),
    let at_ := fun (o : Operand) (target : Addr) =>
      operandAddr i o s = target ∧ operandByte i o s = busValue target s ∧
      (fetched i o s).draws = (afterRead target s).draws ∧ (fetched i o s).periphLog = (afterRead target s).periphLog
    at_ (.izx zp) (pageZeroWord (zp + s.x) s) ∧
    at_ (.izy zp) (BitVec.ofNat 16 ((pageZeroWord zp s).toNat + s.y.toNat)) ∧
    resolverBonus (.izx zp) (entered i s) = false ∧
    (resolverBonus (.izy zp) (entered i s) = true ↔
      Addr.high (BitVec.ofNat 16 ((pageZeroWord zp s).toNat + s.y.toNat)) ≠ (pageZeroWord zp s).high)

/-! Whole-machine rules. -/

/-- R21 to R23: which instructions write A, X, Y and SP, and that no other does. -/
def Obligations.WhichInstructionsWriteRegisters : Prop :=
  ∀ (i : Instr) (s t : State), exec i s = .next t →
    (i.op ∉ [.adc, .sbc, .and, .ora, .eor, .lda, .pla, .txa, .tya] → i.mode ≠ .acc → t.a = s.a) ∧
    (i.op ∉ [.ldx, .tax, .tsx, .inx, .dex] → t.x = s.x) ∧
    (i.op ∉ [.ldy, .tay, .iny, .dey] → t.y = s.y) ∧
    (i.op ∉ [.pha, .php, .pla, .plp, .jsr, .rts, .rti, .brk, .txs] → t.sp = s.sp)

/-- R26: which instructions write each flag, and that no other does; none clears U once it is set (R27). -/
def Obligations.WhichInstructionsWriteFlags : Prop :=
  ∀ (i : Instr) (s t : State), exec i s = .next t →
    (i.op ∉ [.adc, .sbc, .asl, .lsr, .rol, .ror, .cmp, .cpx, .cpy, .clc, .sec, .plp, .rti] →
      getFlag t.p .c = getFlag s.p .c) ∧
    (i.op ∉ [.adc, .sbc, .and, .ora, .eor, .asl, .lsr, .rol, .ror, .cmp, .cpx, .cpy, .inc, .dec, .inx, .iny, .dex, .dey,
        .lda, .ldx, .ldy, .tax, .tay, .txa, .tya, .tsx, .pla, .bit, .plp, .rti] →
      getFlag t.p .z = getFlag s.p .z ∧ getFlag t.p .n = getFlag s.p .n) ∧
    (i.op ∉ [.sei, .cli, .brk, .plp, .rti] → getFlag t.p .i = getFlag s.p .i) ∧
    (i.op ∉ [.sed, .cld, .plp, .rti] → getFlag t.p .d = getFlag s.p .d) ∧
    (i.op ∉ [.rti, .brk, .plp] → getFlag t.p .b = getFlag s.p .b) ∧
    (i.op ∉ [.adc, .sbc, .bit, .clv, .plp, .rti] → getFlag t.p .v = getFlag s.p .v) ∧
    (getFlag s.p .u = true → getFlag t.p .u = true)

/-- R18, R91, R341: no instruction changes the cartridge or SYSCLK, and RAM changes only by a store, a read-modify-write of
memory, a push, a call or BRK; the host's calls are not touched. -/
def Obligations.WhichInstructionsWriteMemory : Prop :=
  ∀ (i : Instr) (s t : State), exec i s = .next t →
    t.cart = s.cart ∧ t.sysclk = s.sysclk ∧ t.host = s.host ∧
    (i.op ∉ [.sta, .stx, .sty, .asl, .lsr, .rol, .ror, .inc, .dec, .pha, .php, .jsr, .brk] ∨ i.mode = .acc → t.ram = s.ram)

/-- R378 (the record of accesses is the model's, log 6): the accesses of an instruction to the peripheral's window, newest
first: a reading instruction makes one read, a read-modify-write instruction one read and one write, a store one write and no
read; an instruction whose operand lies outside the window makes none. -/
def Obligations.AccessesToThePeripheralWindow : Prop :=
  ∀ (i : Instr) (o : Operand) (s t : State), exec i s = .next t → o ≠ .acc → (∀ v, o ≠ .imm v) →
    let reg : BitVec 3 := (operandAddr i o s).setWidth 3
    let answer := Config.periphAnswer s.draws s.periphLog reg
    (i ∈ [.adc o, .sbc o, .and o, .ora o, .eor o, .bit o, .cmp o, .cpx o, .cpy o, .lda o, .ldx o, .ldy o] →
      t.periphLog = if inWindow (operandAddr i o s) then .cpuRead reg answer :: s.periphLog else s.periphLog) ∧
    (i ∈ [.asl o, .lsr o, .rol o, .ror o, .inc o, .dec o] →
      ∃ v, t.periphLog =
        if inWindow (operandAddr i o s) then .cpuWrite reg v :: .cpuRead reg answer :: s.periphLog else s.periphLog) ∧
    (i ∈ [.sta o, .stx o, .sty o] →
      ∃ v, t.draws = s.draws ∧
        t.periphLog = if inWindow (operandAddr i o s) then .cpuWrite reg v :: s.periphLog else s.periphLog)

/-- R348 (D36): the keys of `disassemble` begin at `start`, rise strictly, stay at or below `stop`, and, where no read falls into
the peripheral's window, differ by the encoded lengths; nothing of the CPU changes. -/
def Obligations.DisassembleKeys : Prop :=
  ∀ (start stop : Addr) (s : State),
    let keys := (disassemble start stop s).1
    keys.head? = (if start ≤ stop then some start.toNat else none) ∧
    keys.Pairwise (· < ·) ∧ (∀ k ∈ keys, start.toNat ≤ k ∧ k ≤ stop.toNat) ∧
    ((∀ k ∈ keys, inWindow (BitVec.ofNat 16 k) = false) →
      (∀ n k next, keys[n]? = some k → keys[n + 1]? = some next →
        next = k + (descriptor (busValue (BitVec.ofNat 16 k) s)).mode.length) ∧
      (∀ k, keys.getLast? = some k → stop.toNat < k + (descriptor (busValue (BitVec.ofNat 16 k) s)).mode.length) ∧
      (disassemble start stop s).2 = s) ∧
    (disassemble start stop s).2 = { s with
      draws := (disassemble start stop s).2.draws
      periphLog := (disassemble start stop s).2.periphLog }

end Statements
end

