-- ==== Sys2Proof/Laws/Bits.lean ====
section
/-! SUPPORT. The laws of byte halves and of the status byte's flags. -/

namespace Sys2Proof

theorem Addr.getLsbD_ofBytes (lo hi : Byte) (i : Nat) :
    (Addr.ofBytes lo hi).getLsbD i = if i < 8 then lo.getLsbD i else hi.getLsbD (i - 8) :=
  BitVec.getLsbD_append

theorem Addr.getLsbD_low (a : Addr) (i : Nat) : a.low.getLsbD i = (decide (i < 8) && a.getLsbD i) := by
  simp [Addr.low]

theorem Addr.getLsbD_high (a : Addr) (i : Nat) : a.high.getLsbD i = (decide (i < 8) && a.getLsbD (8 + i)) := by
  simp [Addr.high]

@[simp] theorem Addr.low_ofBytes (lo hi : Byte) : (Addr.ofBytes lo hi).low = lo := by
  apply BitVec.eq_of_getLsbD_eq
  intro i hi
  rw [Addr.getLsbD_low, Addr.getLsbD_ofBytes, if_pos hi]
  simp only [hi, decide_true, Bool.true_and]

@[simp] theorem Addr.high_ofBytes (lo hi : Byte) : (Addr.ofBytes lo hi).high = hi := by
  apply BitVec.eq_of_getLsbD_eq
  intro i hi
  rw [Addr.getLsbD_high, Addr.getLsbD_ofBytes, if_neg (by omega), Nat.add_sub_cancel_left]
  simp only [hi, decide_true, Bool.true_and]

@[simp] theorem Addr.ofBytes_low_high (a : Addr) : Addr.ofBytes a.low a.high = a := by
  apply BitVec.eq_of_getLsbD_eq
  intro i hi
  rw [Addr.getLsbD_ofBytes]
  split
  · next h => simp only [Addr.getLsbD_low, h, decide_true, Bool.true_and]
  · next h =>
    rw [Addr.getLsbD_high, show 8 + (i - 8) = i by omega]
    simp only [show i - 8 < 8 by omega, decide_true, Bool.true_and]

namespace Machine

/-- Reading a flag after writing one. -/
theorem getFlag_putFlag (p : Byte) (f g : Flag) (v : Bool) :
    getFlag (putFlag p f v) g = if g = f then v else getFlag p g := by
  cases f <;> cases g <;> cases v <;>
    simp [getFlag, putFlag, Flag.index, Flag.mask]

@[simp] theorem getFlag_putFlag_same (p : Byte) (f : Flag) (v : Bool) : getFlag (putFlag p f v) f = v := by
  rw [getFlag_putFlag, if_pos rfl]

theorem getFlag_putFlag_other (p : Byte) {f g : Flag} (v : Bool) (h : g ≠ f) :
    getFlag (putFlag p f v) g = getFlag p g := by
  rw [getFlag_putFlag, if_neg h]

/-- A status byte is its eight flags. -/
theorem status_ext {p q : Byte} (h : ∀ f, getFlag p f = getFlag q f) : p = q := by
  apply BitVec.eq_of_getLsbD_eq
  intro i hi
  have := h .c; have := h .z; have := h .i; have := h .d; have := h .b; have := h .u; have := h .v; have := h .n
  simp only [getFlag, Flag.index] at *
  interval_cases i <;> assumption

/-- The flags after `setZN` (R12). -/
theorem getFlag_setZN (p v : Byte) (f : Flag) :
    getFlag (setZN p v) f = if f = .n then bit7 v else if f = .z then decide (v = 0) else getFlag p f := by
  simp only [setZN, getFlag_putFlag]

end Machine

end Sys2Proof
end

