-- ==== Sys2Proof/Laws/Memory.lean ====
section
/-! SUPPORT. The laws of memory contents: read after write, and every operation keeps the canonical form. -/

namespace Sys2Proof.Machine

@[simp] theorem Memory.read_nil (addr : Nat) : Memory.read [] addr = unlistedByte := rfl

theorem Memory.read_cons (k : Nat) (v : Byte) (rest : Memory) (addr : Nat) :
    Memory.read ((k, v) :: rest) addr = if k = addr then v else Memory.read rest addr := rfl

/-- Canonical from `lo` on is canonical from any lower bound on. -/
theorem Memory.wfAbove_mono {lo lo' : Nat} (h : lo' ≤ lo) :
    ∀ {mem : Memory}, Memory.wfAbove lo mem = true → Memory.wfAbove lo' mem = true
  | [], _ => rfl
  | (k, v) :: rest, hw => by
    simp only [Memory.wfAbove, Bool.and_eq_true, decide_eq_true_eq] at hw ⊢
    exact ⟨⟨by omega, hw.1.2⟩, hw.2⟩

/-- Below the least listed address every byte reads as an unlisted one. -/
theorem Memory.read_below {lo : Nat} :
    ∀ {mem : Memory}, Memory.wfAbove lo mem = true → ∀ {addr : Nat}, addr < lo → mem.read addr = unlistedByte
  | [], _, _, _ => rfl
  | (k, v) :: rest, hw, addr, ha => by
    simp only [Memory.wfAbove, Bool.and_eq_true, decide_eq_true_eq] at hw
    rw [Memory.read_cons, if_neg (by omega)]
    exact Memory.read_below hw.2 (by omega)

/-- A write keeps the canonical form, from any bound up to the written address. -/
theorem Memory.wfAbove_write {addr : Nat} {v : Byte} :
    ∀ {mem : Memory} {lo : Nat}, lo ≤ addr → Memory.wfAbove lo mem = true →
      Memory.wfAbove lo (mem.write addr v) = true
  | [], lo, hl, _ => by
    unfold Memory.write
    split <;> simp_all [Memory.wfAbove]
  | (k, u) :: rest, lo, hl, hw => by
    have hw' := hw
    simp only [Memory.wfAbove, Bool.and_eq_true, decide_eq_true_eq] at hw'
    unfold Memory.write
    split
    · split
      · exact hw
      · simp_all [Memory.wfAbove]
    · split
      · split
        · exact Memory.wfAbove_mono (by omega) hw'.2
        · simp_all [Memory.wfAbove]
      · have := Memory.wfAbove_write (v := v) (mem := rest) (lo := k + 1) (addr := addr) (by omega) hw'.2
        simp_all [Memory.wfAbove]

/-- A write keeps the canonical form. -/
theorem Memory.wf_write {mem : Memory} (addr : Nat) (v : Byte) (h : mem.wf = true) : (mem.write addr v).wf = true :=
  Memory.wfAbove_write (Nat.zero_le _) h

/-- A read after a write to the same address gives the value written. -/
theorem Memory.read_write_same {addr : Nat} {v : Byte} :
    ∀ {mem : Memory} {lo : Nat}, Memory.wfAbove lo mem = true → (mem.write addr v).read addr = v
  | [], lo, _ => by
    unfold Memory.write
    split <;> simp_all [Memory.read_cons]
  | (k, u) :: rest, lo, hw => by
    simp only [Memory.wfAbove, Bool.and_eq_true, decide_eq_true_eq] at hw
    unfold Memory.write
    split
    · split
      · rw [Memory.read_cons, if_neg (by omega), Memory.read_below hw.2 (by omega)]
        simp_all
      · simp [Memory.read_cons]
    · split
      · split
        · rw [Memory.read_below hw.2 (by omega)]
          simp_all
        · simp [Memory.read_cons]
      · rw [Memory.read_cons, if_neg (by omega)]
        exact Memory.read_write_same hw.2

/-- A write leaves every other address alone. -/
theorem Memory.read_write_other {addr other : Nat} {v : Byte} (hne : other ≠ addr) :
    ∀ {mem : Memory}, (mem.write addr v).read other = mem.read other
  | [] => by
    unfold Memory.write
    split
    · rfl
    · rw [Memory.read_cons, if_neg (Ne.symm hne)]
  | (k, u) :: rest => by
    unfold Memory.write
    split
    · split
      · rfl
      · rw [Memory.read_cons, if_neg (Ne.symm hne)]
    · split
      · next h => subst h; split <;> simp [Memory.read_cons, Ne.symm hne]
      · rw [Memory.read_cons, Memory.read_cons, Memory.read_write_other hne]

/-- What a read finds after a write. -/
theorem Memory.read_write {mem : Memory} (h : mem.wf = true) (addr other : Nat) (v : Byte) :
    (mem.write addr v).read other = if other = addr then v else mem.read other := by
  split
  · next he => subst he; exact Memory.read_write_same h
  · next he => exact Memory.read_write_other he

@[simp] theorem Memory.within_nil (size : Nat) : Memory.within [] size = true := rfl

theorem Memory.within_cons (k : Nat) (v : Byte) (rest : Memory) (size : Nat) :
    Memory.within ((k, v) :: rest) size = (decide (k < size) && Memory.within rest size) := rfl

/-- A write inside the size keeps every listed address inside it. -/
theorem Memory.within_write {size addr : Nat} {v : Byte} (ha : addr < size) :
    ∀ {mem : Memory}, mem.within size = true → (mem.write addr v).within size = true
  | [], _ => by
    unfold Memory.write
    split
    · rfl
    · rw [Memory.within_cons]; simp [ha]
  | (k, u) :: rest, hw => by
    rw [Memory.within_cons, Bool.and_eq_true, decide_eq_true_eq] at hw
    have ih := Memory.within_write (v := v) ha hw.2
    unfold Memory.write
    split
    · split <;> simp only [Memory.within_cons, ha, hw.1, hw.2, decide_true, Bool.and_self]
    · split
      · split
        · exact hw.2
        · simp only [Memory.within_cons, ha, hw.2, decide_true, Bool.and_self]
      · simp only [Memory.within_cons, hw.1, ih, decide_true, Bool.and_self]

/-- The contents of a byte string are canonical. -/
theorem Memory.wfAbove_ofBytesAt : ∀ (bytes : List Byte) (addr : Nat),
    Memory.wfAbove addr (Memory.ofBytesAt addr bytes) = true
  | [], _ => rfl
  | v :: rest, addr => by
    have ih := Memory.wfAbove_ofBytesAt rest (addr + 1)
    unfold Memory.ofBytesAt
    split
    · exact Memory.wfAbove_mono (Nat.le_succ _) ih
    · simp_all [Memory.wfAbove]

theorem Memory.wf_ofBytes (bytes : List Byte) : (Memory.ofBytes bytes).wf = true :=
  Memory.wfAbove_ofBytesAt bytes 0

/-- The contents of a byte string stay inside its length. -/
theorem Memory.within_ofBytesAt : ∀ (bytes : List Byte) (addr size : Nat), addr + bytes.length ≤ size →
    (Memory.ofBytesAt addr bytes).within size = true
  | [], _, _, _ => rfl
  | v :: rest, addr, size, h => by
    simp only [List.length_cons] at h
    have ih := Memory.within_ofBytesAt rest (addr + 1) size (by omega)
    unfold Memory.ofBytesAt
    split
    · exact ih
    · rw [Memory.within_cons, Bool.and_eq_true, decide_eq_true_eq]
      exact ⟨by omega, ih⟩

/-- A byte of a byte string, read back from its contents. -/
theorem Memory.read_ofBytesAt : ∀ (bytes : List Byte) (addr k : Nat), k < bytes.length →
    (Memory.ofBytesAt addr bytes).read (addr + k) = bytes.getD k unlistedByte
  | [], _, _, h => absurd h (Nat.not_lt_zero _)
  | v :: rest, addr, 0, _ => by
    unfold Memory.ofBytesAt
    split
    · rw [Memory.read_below (Memory.wfAbove_ofBytesAt rest (addr + 1)) (by omega)]
      simp_all
    · simp [Memory.read_cons]
  | v :: rest, addr, k + 1, h => by
    have ih := Memory.read_ofBytesAt rest (addr + 1) k (by simpa using h)
    have ha : addr + (k + 1) = addr + 1 + k := by omega
    unfold Memory.ofBytesAt
    split
    · rw [ha, ih]; rfl
    · rw [Memory.read_cons, if_neg (by omega), ha, ih]; rfl

theorem Memory.read_ofBytes {bytes : List Byte} {k : Nat} (h : k < bytes.length) :
    (Memory.ofBytes bytes).read k = bytes.getD k unlistedByte := by
  simpa [Memory.ofBytes] using Memory.read_ofBytesAt bytes 0 k h

end Sys2Proof.Machine
end

