-- ==== Sys2Proof/Laws/State.lean ====
section
/-! SUPPORT. One lemma per field for each named update of the state: no later proof unfolds a record update. -/

namespace Sys2Proof.Machine

@[simp] theorem enterInstr_a (b : Byte) (n : Nat) (s : State) : (enterInstr b n s).a = s.a := rfl
@[simp] theorem enterInstr_x (b : Byte) (n : Nat) (s : State) : (enterInstr b n s).x = s.x := rfl
@[simp] theorem enterInstr_y (b : Byte) (n : Nat) (s : State) : (enterInstr b n s).y = s.y := rfl
@[simp] theorem enterInstr_sp (b : Byte) (n : Nat) (s : State) : (enterInstr b n s).sp = s.sp := rfl
@[simp] theorem enterInstr_p (b : Byte) (n : Nat) (s : State) : (enterInstr b n s).p = s.p := rfl
@[simp] theorem enterInstr_pc (b : Byte) (n : Nat) (s : State) : (enterInstr b n s).pc = s.pc + BitVec.ofNat 16 n := rfl
@[simp] theorem enterInstr_ir (b : Byte) (n : Nat) (s : State) : (enterInstr b n s).ir = b := rfl
@[simp] theorem enterInstr_ea (b : Byte) (n : Nat) (s : State) : (enterInstr b n s).ea = s.ea := rfl
@[simp] theorem enterInstr_rel (b : Byte) (n : Nat) (s : State) : (enterInstr b n s).rel = s.rel := rfl
@[simp] theorem enterInstr_m (b : Byte) (n : Nat) (s : State) : (enterInstr b n s).m = s.m := rfl
@[simp] theorem enterInstr_cyc (b : Byte) (n : Nat) (s : State) : (enterInstr b n s).cyc = s.cyc := rfl
@[simp] theorem enterInstr_sysclk (b : Byte) (n : Nat) (s : State) : (enterInstr b n s).sysclk = s.sysclk := rfl
@[simp] theorem enterInstr_ram (b : Byte) (n : Nat) (s : State) : (enterInstr b n s).ram = s.ram := rfl
@[simp] theorem enterInstr_cart (b : Byte) (n : Nat) (s : State) : (enterInstr b n s).cart = s.cart := rfl
@[simp] theorem enterInstr_host (b : Byte) (n : Nat) (s : State) : (enterInstr b n s).host = s.host := rfl
@[simp] theorem enterInstr_draws (b : Byte) (n : Nat) (s : State) : (enterInstr b n s).draws = s.draws := rfl
@[simp] theorem enterInstr_periphLog (b : Byte) (n : Nat) (s : State) : (enterInstr b n s).periphLog = s.periphLog := rfl

@[simp] theorem loadCyc_a (n : Nat) (s : State) : (loadCyc n s).a = s.a := rfl
@[simp] theorem loadCyc_x (n : Nat) (s : State) : (loadCyc n s).x = s.x := rfl
@[simp] theorem loadCyc_y (n : Nat) (s : State) : (loadCyc n s).y = s.y := rfl
@[simp] theorem loadCyc_sp (n : Nat) (s : State) : (loadCyc n s).sp = s.sp := rfl
@[simp] theorem loadCyc_p (n : Nat) (s : State) : (loadCyc n s).p = s.p := rfl
@[simp] theorem loadCyc_pc (n : Nat) (s : State) : (loadCyc n s).pc = s.pc := rfl
@[simp] theorem loadCyc_ir (n : Nat) (s : State) : (loadCyc n s).ir = s.ir := rfl
@[simp] theorem loadCyc_ea (n : Nat) (s : State) : (loadCyc n s).ea = s.ea := rfl
@[simp] theorem loadCyc_rel (n : Nat) (s : State) : (loadCyc n s).rel = s.rel := rfl
@[simp] theorem loadCyc_m (n : Nat) (s : State) : (loadCyc n s).m = s.m := rfl
@[simp] theorem loadCyc_cyc (n : Nat) (s : State) : (loadCyc n s).cyc = n := rfl
@[simp] theorem loadCyc_sysclk (n : Nat) (s : State) : (loadCyc n s).sysclk = s.sysclk := rfl
@[simp] theorem loadCyc_ram (n : Nat) (s : State) : (loadCyc n s).ram = s.ram := rfl
@[simp] theorem loadCyc_cart (n : Nat) (s : State) : (loadCyc n s).cart = s.cart := rfl
@[simp] theorem loadCyc_host (n : Nat) (s : State) : (loadCyc n s).host = s.host := rfl
@[simp] theorem loadCyc_draws (n : Nat) (s : State) : (loadCyc n s).draws = s.draws := rfl
@[simp] theorem loadCyc_periphLog (n : Nat) (s : State) : (loadCyc n s).periphLog = s.periphLog := rfl

@[simp] theorem countDown_a (s : State) : (countDown s).a = s.a := rfl
@[simp] theorem countDown_x (s : State) : (countDown s).x = s.x := rfl
@[simp] theorem countDown_y (s : State) : (countDown s).y = s.y := rfl
@[simp] theorem countDown_sp (s : State) : (countDown s).sp = s.sp := rfl
@[simp] theorem countDown_p (s : State) : (countDown s).p = s.p := rfl
@[simp] theorem countDown_pc (s : State) : (countDown s).pc = s.pc := rfl
@[simp] theorem countDown_ir (s : State) : (countDown s).ir = s.ir := rfl
@[simp] theorem countDown_ea (s : State) : (countDown s).ea = s.ea := rfl
@[simp] theorem countDown_rel (s : State) : (countDown s).rel = s.rel := rfl
@[simp] theorem countDown_m (s : State) : (countDown s).m = s.m := rfl
@[simp] theorem countDown_cyc (s : State) : (countDown s).cyc = s.cyc - 1 := rfl
@[simp] theorem countDown_sysclk (s : State) : (countDown s).sysclk = s.sysclk := rfl
@[simp] theorem countDown_ram (s : State) : (countDown s).ram = s.ram := rfl
@[simp] theorem countDown_cart (s : State) : (countDown s).cart = s.cart := rfl
@[simp] theorem countDown_host (s : State) : (countDown s).host = s.host := rfl
@[simp] theorem countDown_draws (s : State) : (countDown s).draws = s.draws := rfl
@[simp] theorem countDown_periphLog (s : State) : (countDown s).periphLog = s.periphLog := rfl

@[simp] theorem countTick_a (s : State) : (countTick s).a = s.a := rfl
@[simp] theorem countTick_x (s : State) : (countTick s).x = s.x := rfl
@[simp] theorem countTick_y (s : State) : (countTick s).y = s.y := rfl
@[simp] theorem countTick_sp (s : State) : (countTick s).sp = s.sp := rfl
@[simp] theorem countTick_p (s : State) : (countTick s).p = s.p := rfl
@[simp] theorem countTick_pc (s : State) : (countTick s).pc = s.pc := rfl
@[simp] theorem countTick_ir (s : State) : (countTick s).ir = s.ir := rfl
@[simp] theorem countTick_ea (s : State) : (countTick s).ea = s.ea := rfl
@[simp] theorem countTick_rel (s : State) : (countTick s).rel = s.rel := rfl
@[simp] theorem countTick_m (s : State) : (countTick s).m = s.m := rfl
@[simp] theorem countTick_cyc (s : State) : (countTick s).cyc = s.cyc := rfl
@[simp] theorem countTick_sysclk (s : State) : (countTick s).sysclk = s.sysclk + 1 := rfl
@[simp] theorem countTick_ram (s : State) : (countTick s).ram = s.ram := rfl
@[simp] theorem countTick_cart (s : State) : (countTick s).cart = s.cart := rfl
@[simp] theorem countTick_host (s : State) : (countTick s).host = s.host := rfl
@[simp] theorem countTick_draws (s : State) : (countTick s).draws = s.draws := rfl
@[simp] theorem countTick_periphLog (s : State) : (countTick s).periphLog = s.periphLog := rfl

@[simp] theorem afterRead_a (addr : Addr) (s : State) : (afterRead addr s).a = s.a := rfl
@[simp] theorem afterRead_x (addr : Addr) (s : State) : (afterRead addr s).x = s.x := rfl
@[simp] theorem afterRead_y (addr : Addr) (s : State) : (afterRead addr s).y = s.y := rfl
@[simp] theorem afterRead_sp (addr : Addr) (s : State) : (afterRead addr s).sp = s.sp := rfl
@[simp] theorem afterRead_p (addr : Addr) (s : State) : (afterRead addr s).p = s.p := rfl
@[simp] theorem afterRead_pc (addr : Addr) (s : State) : (afterRead addr s).pc = s.pc := rfl
@[simp] theorem afterRead_ir (addr : Addr) (s : State) : (afterRead addr s).ir = s.ir := rfl
@[simp] theorem afterRead_ea (addr : Addr) (s : State) : (afterRead addr s).ea = s.ea := rfl
@[simp] theorem afterRead_rel (addr : Addr) (s : State) : (afterRead addr s).rel = s.rel := rfl
@[simp] theorem afterRead_m (addr : Addr) (s : State) : (afterRead addr s).m = s.m := rfl
@[simp] theorem afterRead_cyc (addr : Addr) (s : State) : (afterRead addr s).cyc = s.cyc := rfl
@[simp] theorem afterRead_sysclk (addr : Addr) (s : State) : (afterRead addr s).sysclk = s.sysclk := rfl
@[simp] theorem afterRead_ram (addr : Addr) (s : State) : (afterRead addr s).ram = s.ram := rfl
@[simp] theorem afterRead_cart (addr : Addr) (s : State) : (afterRead addr s).cart = s.cart := rfl
@[simp] theorem afterRead_host (addr : Addr) (s : State) : (afterRead addr s).host = s.host := rfl

@[simp] theorem busWrite_a (addr : Addr) (v : Byte) (s : State) : (busWrite addr v s).a = s.a := rfl
@[simp] theorem busWrite_x (addr : Addr) (v : Byte) (s : State) : (busWrite addr v s).x = s.x := rfl
@[simp] theorem busWrite_y (addr : Addr) (v : Byte) (s : State) : (busWrite addr v s).y = s.y := rfl
@[simp] theorem busWrite_sp (addr : Addr) (v : Byte) (s : State) : (busWrite addr v s).sp = s.sp := rfl
@[simp] theorem busWrite_p (addr : Addr) (v : Byte) (s : State) : (busWrite addr v s).p = s.p := rfl
@[simp] theorem busWrite_pc (addr : Addr) (v : Byte) (s : State) : (busWrite addr v s).pc = s.pc := rfl
@[simp] theorem busWrite_ir (addr : Addr) (v : Byte) (s : State) : (busWrite addr v s).ir = s.ir := rfl
@[simp] theorem busWrite_ea (addr : Addr) (v : Byte) (s : State) : (busWrite addr v s).ea = s.ea := rfl
@[simp] theorem busWrite_rel (addr : Addr) (v : Byte) (s : State) : (busWrite addr v s).rel = s.rel := rfl
@[simp] theorem busWrite_m (addr : Addr) (v : Byte) (s : State) : (busWrite addr v s).m = s.m := rfl
@[simp] theorem busWrite_cyc (addr : Addr) (v : Byte) (s : State) : (busWrite addr v s).cyc = s.cyc := rfl
@[simp] theorem busWrite_sysclk (addr : Addr) (v : Byte) (s : State) : (busWrite addr v s).sysclk = s.sysclk := rfl
@[simp] theorem busWrite_cart (addr : Addr) (v : Byte) (s : State) : (busWrite addr v s).cart = s.cart := rfl
@[simp] theorem busWrite_host (addr : Addr) (v : Byte) (s : State) : (busWrite addr v s).host = s.host := rfl
@[simp] theorem busWrite_draws (addr : Addr) (v : Byte) (s : State) : (busWrite addr v s).draws = s.draws := rfl

@[simp] theorem push_a (v : Byte) (s : State) : (push v s).a = s.a := rfl
@[simp] theorem push_x (v : Byte) (s : State) : (push v s).x = s.x := rfl
@[simp] theorem push_y (v : Byte) (s : State) : (push v s).y = s.y := rfl
@[simp] theorem push_sp (v : Byte) (s : State) : (push v s).sp = s.sp - 1 := rfl
@[simp] theorem push_p (v : Byte) (s : State) : (push v s).p = s.p := rfl
@[simp] theorem push_pc (v : Byte) (s : State) : (push v s).pc = s.pc := rfl
@[simp] theorem push_ir (v : Byte) (s : State) : (push v s).ir = s.ir := rfl
@[simp] theorem push_ea (v : Byte) (s : State) : (push v s).ea = s.ea := rfl
@[simp] theorem push_rel (v : Byte) (s : State) : (push v s).rel = s.rel := rfl
@[simp] theorem push_m (v : Byte) (s : State) : (push v s).m = s.m := rfl
@[simp] theorem push_cyc (v : Byte) (s : State) : (push v s).cyc = s.cyc := rfl
@[simp] theorem push_sysclk (v : Byte) (s : State) : (push v s).sysclk = s.sysclk := rfl
@[simp] theorem push_ram (v : Byte) (s : State) : (push v s).ram = (busWrite (stackAddr s.sp) v s).ram := rfl
@[simp] theorem push_cart (v : Byte) (s : State) : (push v s).cart = s.cart := rfl
@[simp] theorem push_host (v : Byte) (s : State) : (push v s).host = s.host := rfl
@[simp] theorem push_draws (v : Byte) (s : State) : (push v s).draws = s.draws := rfl
@[simp] theorem push_periphLog (v : Byte) (s : State) : (push v s).periphLog = (busWrite (stackAddr s.sp) v s).periphLog := rfl

@[simp] theorem afterPull_a (s : State) : (afterPull s).a = s.a := rfl
@[simp] theorem afterPull_x (s : State) : (afterPull s).x = s.x := rfl
@[simp] theorem afterPull_y (s : State) : (afterPull s).y = s.y := rfl
@[simp] theorem afterPull_sp (s : State) : (afterPull s).sp = s.sp + 1 := rfl
@[simp] theorem afterPull_p (s : State) : (afterPull s).p = s.p := rfl
@[simp] theorem afterPull_pc (s : State) : (afterPull s).pc = s.pc := rfl
@[simp] theorem afterPull_ir (s : State) : (afterPull s).ir = s.ir := rfl
@[simp] theorem afterPull_ea (s : State) : (afterPull s).ea = s.ea := rfl
@[simp] theorem afterPull_rel (s : State) : (afterPull s).rel = s.rel := rfl
@[simp] theorem afterPull_m (s : State) : (afterPull s).m = s.m := rfl
@[simp] theorem afterPull_cyc (s : State) : (afterPull s).cyc = s.cyc := rfl
@[simp] theorem afterPull_sysclk (s : State) : (afterPull s).sysclk = s.sysclk := rfl
@[simp] theorem afterPull_ram (s : State) : (afterPull s).ram = s.ram := rfl
@[simp] theorem afterPull_cart (s : State) : (afterPull s).cart = s.cart := rfl
@[simp] theorem afterPull_host (s : State) : (afterPull s).host = s.host := rfl
@[simp] theorem afterPull_draws (s : State) : (afterPull s).draws = (afterRead (stackAddr (s.sp + 1)) s).draws := rfl
@[simp] theorem afterPull_periphLog (s : State) : (afterPull s).periphLog = (afterRead (stackAddr (s.sp + 1)) s).periphLog := rfl

@[simp] theorem readPair_snd_a (lo hi : Addr) (s : State) : ((readPair lo hi s).2).a = s.a := rfl
@[simp] theorem readPair_snd_x (lo hi : Addr) (s : State) : ((readPair lo hi s).2).x = s.x := rfl
@[simp] theorem readPair_snd_y (lo hi : Addr) (s : State) : ((readPair lo hi s).2).y = s.y := rfl
@[simp] theorem readPair_snd_sp (lo hi : Addr) (s : State) : ((readPair lo hi s).2).sp = s.sp := rfl
@[simp] theorem readPair_snd_p (lo hi : Addr) (s : State) : ((readPair lo hi s).2).p = s.p := rfl
@[simp] theorem readPair_snd_pc (lo hi : Addr) (s : State) : ((readPair lo hi s).2).pc = s.pc := rfl
@[simp] theorem readPair_snd_ir (lo hi : Addr) (s : State) : ((readPair lo hi s).2).ir = s.ir := rfl
@[simp] theorem readPair_snd_ea (lo hi : Addr) (s : State) : ((readPair lo hi s).2).ea = s.ea := rfl
@[simp] theorem readPair_snd_rel (lo hi : Addr) (s : State) : ((readPair lo hi s).2).rel = s.rel := rfl
@[simp] theorem readPair_snd_m (lo hi : Addr) (s : State) : ((readPair lo hi s).2).m = s.m := rfl
@[simp] theorem readPair_snd_cyc (lo hi : Addr) (s : State) : ((readPair lo hi s).2).cyc = s.cyc := rfl
@[simp] theorem readPair_snd_sysclk (lo hi : Addr) (s : State) : ((readPair lo hi s).2).sysclk = s.sysclk := rfl
@[simp] theorem readPair_snd_ram (lo hi : Addr) (s : State) : ((readPair lo hi s).2).ram = s.ram := rfl
@[simp] theorem readPair_snd_cart (lo hi : Addr) (s : State) : ((readPair lo hi s).2).cart = s.cart := rfl
@[simp] theorem readPair_snd_host (lo hi : Addr) (s : State) : ((readPair lo hi s).2).host = s.host := rfl

@[simp] theorem resolve_a (o : Operand) (s : State) : (resolve o s).a = s.a := rfl
@[simp] theorem resolve_x (o : Operand) (s : State) : (resolve o s).x = s.x := rfl
@[simp] theorem resolve_y (o : Operand) (s : State) : (resolve o s).y = s.y := rfl
@[simp] theorem resolve_sp (o : Operand) (s : State) : (resolve o s).sp = s.sp := rfl
@[simp] theorem resolve_p (o : Operand) (s : State) : (resolve o s).p = s.p := rfl
@[simp] theorem resolve_pc (o : Operand) (s : State) : (resolve o s).pc = s.pc := rfl
@[simp] theorem resolve_ir (o : Operand) (s : State) : (resolve o s).ir = s.ir := rfl
@[simp] theorem resolve_ea (o : Operand) (s : State) : (resolve o s).ea = effectiveAddress o s := rfl
@[simp] theorem resolve_rel (o : Operand) (s : State) : (resolve o s).rel = s.rel := rfl
@[simp] theorem resolve_cyc (o : Operand) (s : State) : (resolve o s).cyc = s.cyc := rfl
@[simp] theorem resolve_sysclk (o : Operand) (s : State) : (resolve o s).sysclk = s.sysclk := rfl
@[simp] theorem resolve_ram (o : Operand) (s : State) : (resolve o s).ram = s.ram := rfl
@[simp] theorem resolve_cart (o : Operand) (s : State) : (resolve o s).cart = s.cart := rfl
@[simp] theorem resolve_host (o : Operand) (s : State) : (resolve o s).host = s.host := rfl
@[simp] theorem resolve_draws (o : Operand) (s : State) : (resolve o s).draws = (afterPointerReads o s).draws := rfl
@[simp] theorem resolve_periphLog (o : Operand) (s : State) : (resolve o s).periphLog = (afterPointerReads o s).periphLog := rfl

@[simp] theorem fetchOperand_a (o : Operand) (s : State) : (fetchOperand o s).a = s.a := by cases o <;> rfl
@[simp] theorem fetchOperand_x (o : Operand) (s : State) : (fetchOperand o s).x = s.x := by cases o <;> rfl
@[simp] theorem fetchOperand_y (o : Operand) (s : State) : (fetchOperand o s).y = s.y := by cases o <;> rfl
@[simp] theorem fetchOperand_sp (o : Operand) (s : State) : (fetchOperand o s).sp = s.sp := by cases o <;> rfl
@[simp] theorem fetchOperand_p (o : Operand) (s : State) : (fetchOperand o s).p = s.p := by cases o <;> rfl
@[simp] theorem fetchOperand_pc (o : Operand) (s : State) : (fetchOperand o s).pc = s.pc := by cases o <;> rfl
@[simp] theorem fetchOperand_ir (o : Operand) (s : State) : (fetchOperand o s).ir = s.ir := by cases o <;> rfl
@[simp] theorem fetchOperand_ea (o : Operand) (s : State) : (fetchOperand o s).ea = s.ea := by cases o <;> rfl
@[simp] theorem fetchOperand_rel (o : Operand) (s : State) : (fetchOperand o s).rel = s.rel := by cases o <;> rfl
@[simp] theorem fetchOperand_cyc (o : Operand) (s : State) : (fetchOperand o s).cyc = s.cyc := by cases o <;> rfl
@[simp] theorem fetchOperand_sysclk (o : Operand) (s : State) : (fetchOperand o s).sysclk = s.sysclk := by cases o <;> rfl
@[simp] theorem fetchOperand_ram (o : Operand) (s : State) : (fetchOperand o s).ram = s.ram := by cases o <;> rfl
@[simp] theorem fetchOperand_cart (o : Operand) (s : State) : (fetchOperand o s).cart = s.cart := by cases o <;> rfl
@[simp] theorem fetchOperand_host (o : Operand) (s : State) : (fetchOperand o s).host = s.host := by cases o <;> rfl

@[simp] theorem writeBack_x (o : Operand) (v : Byte) (s : State) : (writeBack o v s).x = s.x := by cases o <;> rfl
@[simp] theorem writeBack_y (o : Operand) (v : Byte) (s : State) : (writeBack o v s).y = s.y := by cases o <;> rfl
@[simp] theorem writeBack_sp (o : Operand) (v : Byte) (s : State) : (writeBack o v s).sp = s.sp := by cases o <;> rfl
@[simp] theorem writeBack_p (o : Operand) (v : Byte) (s : State) : (writeBack o v s).p = s.p := by cases o <;> rfl
@[simp] theorem writeBack_pc (o : Operand) (v : Byte) (s : State) : (writeBack o v s).pc = s.pc := by cases o <;> rfl
@[simp] theorem writeBack_ir (o : Operand) (v : Byte) (s : State) : (writeBack o v s).ir = s.ir := by cases o <;> rfl
@[simp] theorem writeBack_ea (o : Operand) (v : Byte) (s : State) : (writeBack o v s).ea = s.ea := by cases o <;> rfl
@[simp] theorem writeBack_rel (o : Operand) (v : Byte) (s : State) : (writeBack o v s).rel = s.rel := by cases o <;> rfl
@[simp] theorem writeBack_m (o : Operand) (v : Byte) (s : State) : (writeBack o v s).m = s.m := by cases o <;> rfl
@[simp] theorem writeBack_cyc (o : Operand) (v : Byte) (s : State) : (writeBack o v s).cyc = s.cyc := by cases o <;> rfl
@[simp] theorem writeBack_sysclk (o : Operand) (v : Byte) (s : State) : (writeBack o v s).sysclk = s.sysclk := by cases o <;> rfl
@[simp] theorem writeBack_cart (o : Operand) (v : Byte) (s : State) : (writeBack o v s).cart = s.cart := by cases o <;> rfl
@[simp] theorem writeBack_host (o : Operand) (v : Byte) (s : State) : (writeBack o v s).host = s.host := by cases o <;> rfl
@[simp] theorem writeBack_draws (o : Operand) (v : Byte) (s : State) : (writeBack o v s).draws = s.draws := by cases o <;> rfl

@[simp] theorem takeException_a (ret : Addr) (pushed live : Byte) (vector : Addr) (s : State) : (takeException ret pushed live vector s).a = s.a := by
  simp [takeException]
@[simp] theorem takeException_x (ret : Addr) (pushed live : Byte) (vector : Addr) (s : State) : (takeException ret pushed live vector s).x = s.x := by
  simp [takeException]
@[simp] theorem takeException_y (ret : Addr) (pushed live : Byte) (vector : Addr) (s : State) : (takeException ret pushed live vector s).y = s.y := by
  simp [takeException]
@[simp] theorem takeException_sp (ret : Addr) (pushed live : Byte) (vector : Addr) (s : State) : (takeException ret pushed live vector s).sp = s.sp - 1 - 1 - 1 := by
  simp [takeException]
@[simp] theorem takeException_p (ret : Addr) (pushed live : Byte) (vector : Addr) (s : State) : (takeException ret pushed live vector s).p = putFlag live .i true := by
  simp [takeException]
@[simp] theorem takeException_ir (ret : Addr) (pushed live : Byte) (vector : Addr) (s : State) : (takeException ret pushed live vector s).ir = s.ir := by
  simp [takeException]
@[simp] theorem takeException_ea (ret : Addr) (pushed live : Byte) (vector : Addr) (s : State) : (takeException ret pushed live vector s).ea = s.ea := by
  simp [takeException]
@[simp] theorem takeException_rel (ret : Addr) (pushed live : Byte) (vector : Addr) (s : State) : (takeException ret pushed live vector s).rel = s.rel := by
  simp [takeException]
@[simp] theorem takeException_m (ret : Addr) (pushed live : Byte) (vector : Addr) (s : State) : (takeException ret pushed live vector s).m = s.m := by
  simp [takeException]
@[simp] theorem takeException_cyc (ret : Addr) (pushed live : Byte) (vector : Addr) (s : State) : (takeException ret pushed live vector s).cyc = s.cyc := by
  simp [takeException]
@[simp] theorem takeException_sysclk (ret : Addr) (pushed live : Byte) (vector : Addr) (s : State) : (takeException ret pushed live vector s).sysclk = s.sysclk := by
  simp [takeException]
@[simp] theorem takeException_cart (ret : Addr) (pushed live : Byte) (vector : Addr) (s : State) : (takeException ret pushed live vector s).cart = s.cart := by
  simp [takeException]
@[simp] theorem takeException_host (ret : Addr) (pushed live : Byte) (vector : Addr) (s : State) : (takeException ret pushed live vector s).host = s.host := by
  simp [takeException]

@[simp] theorem periphClock_a (s : State) : (periphClock s).a = s.a := rfl
@[simp] theorem periphClock_x (s : State) : (periphClock s).x = s.x := rfl
@[simp] theorem periphClock_y (s : State) : (periphClock s).y = s.y := rfl
@[simp] theorem periphClock_sp (s : State) : (periphClock s).sp = s.sp := rfl
@[simp] theorem periphClock_p (s : State) : (periphClock s).p = s.p := rfl
@[simp] theorem periphClock_pc (s : State) : (periphClock s).pc = s.pc := rfl
@[simp] theorem periphClock_ir (s : State) : (periphClock s).ir = s.ir := rfl
@[simp] theorem periphClock_ea (s : State) : (periphClock s).ea = s.ea := rfl
@[simp] theorem periphClock_rel (s : State) : (periphClock s).rel = s.rel := rfl
@[simp] theorem periphClock_m (s : State) : (periphClock s).m = s.m := rfl
@[simp] theorem periphClock_cyc (s : State) : (periphClock s).cyc = s.cyc := rfl
@[simp] theorem periphClock_sysclk (s : State) : (periphClock s).sysclk = s.sysclk := rfl
@[simp] theorem periphClock_ram (s : State) : (periphClock s).ram = s.ram := rfl
@[simp] theorem periphClock_host (s : State) : (periphClock s).host = s.host := rfl
@[simp] theorem periphClock_draws (s : State) : (periphClock s).draws = s.draws + 1 := rfl

@[simp] theorem loadOperand_ea (o : Operand) (s : State) : (loadOperand o s).ea = effectiveAddress o s := by
  simp [loadOperand]
@[simp] theorem loadOperand_a (o : Operand) (s : State) : (loadOperand o s).a = s.a := by simp [loadOperand]
@[simp] theorem loadOperand_x (o : Operand) (s : State) : (loadOperand o s).x = s.x := by simp [loadOperand]
@[simp] theorem loadOperand_y (o : Operand) (s : State) : (loadOperand o s).y = s.y := by simp [loadOperand]
@[simp] theorem loadOperand_sp (o : Operand) (s : State) : (loadOperand o s).sp = s.sp := by simp [loadOperand]
@[simp] theorem loadOperand_p (o : Operand) (s : State) : (loadOperand o s).p = s.p := by simp [loadOperand]
@[simp] theorem loadOperand_pc (o : Operand) (s : State) : (loadOperand o s).pc = s.pc := by simp [loadOperand]
@[simp] theorem loadOperand_ir (o : Operand) (s : State) : (loadOperand o s).ir = s.ir := by simp [loadOperand]
@[simp] theorem loadOperand_rel (o : Operand) (s : State) : (loadOperand o s).rel = s.rel := by simp [loadOperand]
@[simp] theorem loadOperand_cyc (o : Operand) (s : State) : (loadOperand o s).cyc = s.cyc := by simp [loadOperand]
@[simp] theorem loadOperand_sysclk (o : Operand) (s : State) : (loadOperand o s).sysclk = s.sysclk := by simp [loadOperand]
@[simp] theorem loadOperand_ram (o : Operand) (s : State) : (loadOperand o s).ram = s.ram := by simp [loadOperand]
@[simp] theorem loadOperand_cart (o : Operand) (s : State) : (loadOperand o s).cart = s.cart := by simp [loadOperand]
@[simp] theorem loadOperand_host (o : Operand) (s : State) : (loadOperand o s).host = s.host := by simp [loadOperand]

end Sys2Proof.Machine
end

