-- ==== Sys2Proof/Laws/Bus.lean ====
section
/-! SUPPORT. The laws of the cartridge, the bus and the stack: who answers an access, what a read finds after a write. -/

namespace Sys2Proof.Machine

/-- The cartridge answers through NROM with its header's bank counts, or through no mapper. -/
theorem Cartridge.mapper_cases (c : Cartridge) :
    (c.valid = true ∧ c.mapperId = 0x00 ∧ c.mapper = some (.nrom c.header.prgChunks.toNat c.header.chrChunks.toNat)) ∨
    (¬ (c.valid = true ∧ c.mapperId = 0x00) ∧ c.mapper = none) := by
  unfold Cartridge.mapper mapperFor
  by_cases h : c.valid = true <;> by_cases h' : c.mapperId = 0x00 <;> simp_all

/-- Reads and writes of the CPU side are claimed alike (R87). -/
theorem Cartridge.claimWriteCpu_eq (c : Cartridge) (addr : Addr) : c.claimWriteCpu addr = c.claimReadCpu addr := by
  unfold Cartridge.claimWriteCpu Cartridge.claimReadCpu
  rcases c.mapper_cases with ⟨-, -, h⟩ | ⟨-, h⟩ <;> rw [h] <;> rfl

/-- Nothing below 0x8000 is claimed (R69, R87). -/
theorem Cartridge.claimReadCpu_low (c : Cartridge) {addr : Addr} (h : addr < 0x8000#16) : c.claimReadCpu addr = none := by
  unfold Cartridge.claimReadCpu
  rcases c.mapper_cases with ⟨-, -, hm⟩ | ⟨-, hm⟩
  · simp [hm, Mapper.mapReadCpu, BitVec.not_le.mpr h]
  · simp [hm]

/-- A write goes where a read comes from. -/
@[simp] theorem writeResponder_eq (c : Cartridge) (addr : Addr) : writeResponder c addr = readResponder c addr := by
  unfold writeResponder readResponder
  rw [Cartridge.claimWriteCpu_eq]

/-- RAM answers below 0x2000 (R64, R66). -/
theorem readResponder_ram (c : Cartridge) {addr : Addr} (h : addr ≤ 0x1FFF#16) :
    readResponder c addr = .ram (ramIndex addr) := by
  unfold readResponder
  rw [c.claimReadCpu_low (by bv_omega), route, if_pos h]

/-- The peripheral answers from 0x2000 to 0x3FFF (R64, R67). -/
theorem readResponder_periph (c : Cartridge) {addr : Addr} (h : 0x2000#16 ≤ addr) (h' : addr ≤ 0x3FFF#16) :
    readResponder c addr = .periph (periphReg addr) := by
  unfold readResponder
  rw [c.claimReadCpu_low (by bv_omega), route, if_neg (by bv_omega), if_pos h']

/-- Nobody answers from 0x4000 to 0x7FFF (R70). -/
theorem readResponder_openBus (c : Cartridge) {addr : Addr} (h : 0x4000#16 ≤ addr) (h' : addr ≤ 0x7FFF#16) :
    readResponder c addr = .openBus := by
  unfold readResponder
  rw [c.claimReadCpu_low (by bv_omega), route, if_neg (by bv_omega), if_neg (by bv_omega)]

/-- From 0x8000 on a valid NROM cartridge answers with its PRG (R87). -/
theorem readResponder_prg {c : Cartridge} (hv : c.valid = true) (hm : c.mapperId = 0x00) {addr : Addr}
    (h : 0x8000#16 ≤ addr) :
    readResponder c addr =
      .cartridge (addr &&& (if c.header.prgChunks.toNat > 1 then 0x7FFF#16 else 0x3FFF#16)).toNat := by
  unfold readResponder Cartridge.claimReadCpu
  rcases c.mapper_cases with ⟨-, -, hc⟩ | ⟨hc, -⟩
  · simp [hc, Mapper.mapReadCpu, h, route]
  · exact absurd ⟨hv, hm⟩ hc

/-- From 0x8000 on nobody answers for any other cartridge (R92). -/
theorem readResponder_noCart {c : Cartridge} (hc : ¬ (c.valid = true ∧ c.mapperId = 0x00)) {addr : Addr}
    (h : 0x8000#16 ≤ addr) : readResponder c addr = .openBus := by
  unfold readResponder Cartridge.claimReadCpu
  rcases c.mapper_cases with ⟨hv, hm, -⟩ | ⟨-, hm⟩
  · exact absurd ⟨hv, hm⟩ hc
  · rw [hm]
    simp only [Option.bind_none, route]
    rw [if_neg (by bv_omega), if_neg (by bv_omega)]

/-- The peripheral answers nowhere else. -/
theorem periph_window {c : Cartridge} {addr : Addr} {reg : BitVec 3} (h : readResponder c addr = .periph reg) :
    0x2000#16 ≤ addr ∧ addr ≤ 0x3FFF#16 ∧ reg = periphReg addr := by
  unfold readResponder route at h
  split at h
  · cases h
  · split at h
    · cases h
    · split at h
      · next h1 h2 => cases h; exact ⟨by bv_omega, h2, rfl⟩
      · cases h

theorem ramIndex_lt (addr : Addr) : ramIndex addr < 2048 := by
  unfold ramIndex
  rw [BitVec.toNat_and]
  exact Nat.lt_of_le_of_lt Nat.and_le_right (by decide)

/-- A read outside the peripheral's window leaves no trace (R72). -/
theorem afterRead_eq {addr : Addr} {s : State} (h : ∀ reg, readResponder s.cart addr ≠ .periph reg) :
    afterRead addr s = s := by
  unfold afterRead
  split
  · next reg hr => exact absurd hr (h reg)
  · rfl

theorem afterRead_of_ram {addr : Addr} (s : State) (h : addr ≤ 0x1FFF#16) : afterRead addr s = s :=
  afterRead_eq fun reg hr => by rw [readResponder_ram _ h] at hr; cases hr

theorem busValue_ram {addr : Addr} (s : State) (h : addr ≤ 0x1FFF#16) : busValue addr s = s.ram.read (ramIndex addr) := by
  unfold busValue
  rw [readResponder_ram _ h]

/-- The byte a read returns depends on the memories and, in the window, on the oracle's two fields only. -/
theorem busValue_congr {addr : Addr} {s t : State} (hr : t.ram = s.ram) (hc : t.cart = s.cart) (hd : t.draws = s.draws)
    (hl : t.periphLog = s.periphLog) : busValue addr t = busValue addr s := by
  unfold busValue
  rw [hr, hc, hd, hl]

/-- Outside the window it depends on the memories only. -/
theorem busValue_congr_memory {addr : Addr} {s t : State} (hr : t.ram = s.ram) (hc : t.cart = s.cart)
    (hw : ∀ reg, readResponder s.cart addr ≠ .periph reg) : busValue addr t = busValue addr s := by
  unfold busValue
  rw [hr, hc]
  split
  · rfl
  · rfl
  · next reg h => exact absurd h (hw reg)
  · rfl

theorem busWrite_ram_of {addr : Addr} (v : Byte) (s : State) (h : addr ≤ 0x1FFF#16) :
    (busWrite addr v s).ram = s.ram.write (ramIndex addr) v := by
  simp [busWrite, readResponder_ram _ h]

theorem busWrite_periphLog_of_ram {addr : Addr} (v : Byte) (s : State) (h : addr ≤ 0x1FFF#16) :
    (busWrite addr v s).periphLog = s.periphLog := by
  simp [busWrite, readResponder_ram _ h]

/-- A write not routed to RAM leaves RAM alone (R65, R70, R85). -/
theorem busWrite_ram_unchanged {addr : Addr} (v : Byte) (s : State) (h : ∀ k, readResponder s.cart addr ≠ .ram k) :
    (busWrite addr v s).ram = s.ram := by
  simp only [busWrite, writeResponder_eq]

/-- RAM after any write keeps its canonical form. -/
theorem busWrite_ram_wf {addr : Addr} {v : Byte} {s : State} (h : s.ram.wf = true) : (busWrite addr v s).ram.wf = true := by
  simp only [busWrite]
  split
  · exact Memory.wf_write _ _ h
  · exact h

/-- RAM after any write stays inside its 2 048 bytes. -/
theorem busWrite_ram_within {addr : Addr} {v : Byte} {s : State} (h : s.ram.within 2048 = true) :
    (busWrite addr v s).ram.within 2048 = true := by
  simp only [busWrite, writeResponder_eq]
  split
  · next k hk =>
    unfold readResponder route at hk
    split at hk
    · cases hk
    · split at hk
      · cases hk; exact Memory.within_write (ramIndex_lt addr) h
      · split at hk <;> cases hk
  · exact h

/-! The stack. -/

theorem stackAddr_le (sp : Byte) : stackAddr sp ≤ 0x1FFF#16 := by
  unfold stackAddr zext16
  bv_omega

theorem ramIndex_stackAddr (sp : Byte) : ramIndex (stackAddr sp) = 0x100 + sp.toNat := by
  have hb : sp.toNat < 256 := sp.isLt
  have h : (stackAddr sp).toNat = 0x100 + sp.toNat := by
    unfold stackAddr zext16
    simp only [BitVec.toNat_add, BitVec.toNat_ofNat, BitVec.toNat_setWidth]
    omega
  unfold ramIndex
  rw [BitVec.toNat_and, h]
  have h7 : (0x07FF#16).toNat = 2 ^ 11 - 1 := by decide
  rw [h7, Nat.and_two_pow_sub_one_eq_mod]
  omega

/-- A push writes RAM byte `0x100 + SP` (R11, R23). -/
theorem push_ram_eq (v : Byte) (s : State) : (push v s).ram = s.ram.write (0x100 + s.sp.toNat) v := by
  rw [push_ram, busWrite_ram_of _ _ (stackAddr_le _), ramIndex_stackAddr]

theorem push_periphLog_eq (v : Byte) (s : State) : (push v s).periphLog = s.periphLog := by
  rw [push_periphLog, busWrite_periphLog_of_ram _ _ (stackAddr_le _)]

/-- A push is the RAM write and the new SP, and nothing else. -/
theorem push_eq (v : Byte) (s : State) :
    push v s = { s with ram := s.ram.write (0x100 + s.sp.toNat) v, sp := s.sp - 1 } := by
  have hr := push_ram_eq v s
  have hl := push_periphLog_eq v s
  calc push v s = { s with ram := (push v s).ram, sp := s.sp - 1, periphLog := (push v s).periphLog } := rfl
    _ = _ := by rw [hr, hl]

/-- A pull reads RAM byte `0x100 + (SP + 1)` (R11). -/
theorem pullValue_eq (s : State) : pullValue s = s.ram.read (0x100 + (s.sp + 1).toNat) := by
  rw [pullValue, busValue_ram _ (stackAddr_le _), ramIndex_stackAddr]

/-- A pull changes SP and nothing else. -/
theorem afterPull_eq (s : State) : afterPull s = { s with sp := s.sp + 1 } := by
  unfold afterPull
  rw [afterRead_of_ram _ (stackAddr_le _)]

/-- What a pull finds right after a push. -/
theorem pullValue_push {s : State} (h : s.ram.wf = true) (v : Byte) : pullValue (push v s) = v := by
  rw [pullValue_eq, push_eq]
  simp [Memory.read_write h]

end Sys2Proof.Machine
end

