-- ==== Sys2Proof/Laws/Decode.lean ====
section
/-! SUPPORT. The laws of the decode table and the decoder's lengths. -/

namespace Sys2Proof

/-- A property of every byte, checked byte by byte. -/
theorem forall_byte {P : Byte → Prop} (h : ∀ k : Fin 256, P (BitVec.ofFin k)) (b : Byte) : P b := h b.toFin

/-- The descriptor's mode is one that its mnemonic has, for every opcode byte (R121, R125). -/
theorem descriptor_mode (b : Byte) : (descriptor b).op.modes.contains (descriptor b).mode = true :=
  forall_byte (P := fun b => (descriptor b).op.modes.contains (descriptor b).mode = true) (by decide +kernel) b

/-- The NOP rows are the NOP bytes (R127, R307, R308). -/
theorem descriptor_nop (b : Byte) : (descriptor b).op = .nop ↔ nopOpcodes.contains b = true :=
  forall_byte (P := fun b => (descriptor b).op = .nop ↔ nopOpcodes.contains b = true) (by decide +kernel) b

/-- The XXX rows are the XXX bytes (R127, R309). -/
theorem descriptor_xxx (b : Byte) : (descriptor b).op = .xxx ↔ isXxxOpcode b = true :=
  forall_byte (P := fun b => (descriptor b).op = .xxx ↔ isXxxOpcode b = true) (by decide +kernel) b

/-- Base counts lie between 2 and 8 (R33, R125). -/
theorem descriptor_base (b : Byte) : 2 ≤ (descriptor b).base ∧ (descriptor b).base ≤ 8 :=
  forall_byte (P := fun b => 2 ≤ (descriptor b).base ∧ (descriptor b).base ≤ 8) (by decide +kernel) b

theorem Mode.length_cases (mode : Mode) : mode.length = 1 ∨ mode.length = 2 ∨ mode.length = 3 := by
  cases mode <;> simp [Mode.length]

end Sys2Proof
end

