-- ==== Sys2Proof/Laws/Ops.lean ====
section
/-! SUPPORT. What each shared operation can do, said once: opcode bytes, the shape of an instruction, operands, exceptions. -/

namespace Sys2Proof

/-- The encoder's opcode byte has the instruction's mnemonic and mode in the decode table. -/
theorem descriptor_of_opcode {i : Instr} {b : Byte} (h : i.opcode? = some b) :
    (descriptor b).op = i.op ∧ (descriptor b).mode = i.mode := by
  cases i
  case nop n =>
    simp only [Instr.opcode?] at h
    split at h <;> cases h
    next hn =>
      have hop := (descriptor_nop b).2 hn
      have hm := descriptor_mode b
      rw [hop] at hm
      simp only [Op.modes, List.contains_cons, List.contains_nil, Bool.or_false, beq_iff_eq] at hm
      exact ⟨hop, hm⟩
  case xxx n =>
    simp only [Instr.opcode?] at h
    split at h <;> cases h
    next hn =>
      have hop := (descriptor_xxx b).2 hn
      have hm := descriptor_mode b
      rw [hop] at hm
      simp only [Op.modes, List.contains_cons, List.contains_nil, Bool.or_false, beq_iff_eq] at hm
      exact ⟨hop, hm⟩
  all_goals first
    | (cases h; exact ⟨rfl, rfl⟩)
    | (next o => cases o <;> first | (cases h; exact ⟨rfl, rfl⟩) | cases h)

/-- A well-formed instruction has an opcode byte. -/
theorem exists_opcode_of_wf {i : Instr} (h : i.wf = true) : ∃ b, i.opcode? = some b := by
  cases i
  case nop n => simp_all [Instr.wf, Instr.opcode?]
  case xxx n => simp_all [Instr.wf, Instr.opcode?]
  all_goals first
    | exact ⟨_, rfl⟩
    | (next o => cases o <;> first | exact ⟨_, rfl⟩ | exact absurd h (by simp [Instr.wf, Op.modes, Instr.op, Instr.mode, Operand.mode]))

/-- Only well-formed instructions have one. -/
theorem wf_of_opcode {i : Instr} {b : Byte} (h : i.opcode? = some b) : i.wf = true := by
  cases i
  case nop n =>
    simp only [Instr.opcode?] at h
    split at h <;> cases h
    simp_all [Instr.wf, Op.modes, Instr.op, Instr.mode]
  case xxx n =>
    simp only [Instr.opcode?] at h
    split at h <;> cases h
    simp_all [Instr.wf, Op.modes, Instr.op, Instr.mode]
  all_goals first
    | rfl
    | (next o => cases o <;> first | rfl | exact absurd h (by simp [Instr.opcode?, adcOpcode, andOpcode, aslOpcode, bitOpcode, cmpOpcode, cpxOpcode, cpyOpcode, decOpcode, eorOpcode, incOpcode, jmpOpcode, ldaOpcode, ldxOpcode, ldyOpcode, lsrOpcode, oraOpcode, rolOpcode, rorOpcode, sbcOpcode, staOpcode, stxOpcode, styOpcode]))

end Sys2Proof

namespace Sys2Proof.Machine

/-! The shape of an instruction. -/

/-- A well-formed instruction runs: CYC takes the total, the body runs on the entered state. -/
theorem runInstr_next {i : Instr} (h : i.wf = true) (extra : State → Nat) (body : State → State) (s : State) :
    runInstr i extra body s =
      .next (loadCyc ((descriptor (i.opcode?.getD 0)).base + extra (entered i s)) (body (entered i s))) := by
  obtain ⟨b, hb⟩ := exists_opcode_of_wf h
  simp [runInstr, entered, hb]

/-- And nothing else does. -/
theorem runInstr_inv {i : Instr} {extra : State → Nat} {body : State → State} {s t : State}
    (h : runInstr i extra body s = .next t) :
    i.wf = true ∧ t = loadCyc ((descriptor (i.opcode?.getD 0)).base + extra (entered i s)) (body (entered i s)) := by
  unfold runInstr at h
  split at h
  · cases h
  · next b hb => cases h; exact ⟨wf_of_opcode hb, by simp [entered, hb]⟩

/-- A total never exceeds the base count by more than the two extras, and it is at least 2 (R151). -/
theorem base_bounds (i : Instr) : 2 ≤ (descriptor (i.opcode?.getD 0)).base ∧ (descriptor (i.opcode?.getD 0)).base ≤ 8 :=
  descriptor_base _

theorem bonus_le (xa xb : Bool) : bonus xa xb ≤ 1 := by cases xa <;> cases xb <;> decide

/-! Operands. -/

/-- A resolver writes EA, M for ACC, and the oracle's two fields; nothing else. -/
theorem resolve_eq (o : Operand) (s : State) :
    resolve o s = { s with
      ea := effectiveAddress o s
      m := (resolve o s).m
      draws := (afterPointerReads o s).draws
      periphLog := (afterPointerReads o s).periphLog } := rfl

/-- `fetch()` writes M and the oracle's two fields; nothing else. -/
theorem fetchOperand_eq (o : Operand) (s : State) :
    fetchOperand o s = { s with
      m := (fetchOperand o s).m
      draws := (fetchOperand o s).draws
      periphLog := (fetchOperand o s).periphLog } := by
  cases o <;> rfl

/-- Resolver and `fetch()` write EA, M and the oracle's two fields; nothing else. -/
theorem loadOperand_eq (o : Operand) (s : State) :
    loadOperand o s = { s with
      ea := effectiveAddress o s
      m := (loadOperand o s).m
      draws := (loadOperand o s).draws
      periphLog := (loadOperand o s).periphLog } := by
  cases o <;> rfl

/-- Pointer reads in page zero leave no trace. -/
theorem afterPointerReads_eq {o : Operand} (s : State) (h : ∀ ptr, o ≠ .ind ptr) : afterPointerReads o s = s := by
  have hz : ∀ zp, zeroPage zp ≤ 0x1FFF#16 := fun zp => by unfold zeroPage zext16; bv_omega
  cases o <;> try rfl
  case ind ptr => exact absurd rfl (h ptr)
  case izx zp => simp [afterPointerReads, readPair, afterRead_of_ram _ (hz _)]
  case izy zp => simp [afterPointerReads, izyBase, readPair, afterRead_of_ram _ (hz _)]

/-! Exceptions. -/

/-- An exception entry is three pushes, the word at the vector, and the new status; the vector's bytes are no RAM bytes. -/
theorem takeException_eq (ret : Addr) (pushed live : Byte) {vector : Addr} (h : 0x8000#16 ≤ vector) (h' : vector < 0xFFFF#16)
    (s : State) :
    takeException ret pushed live vector s =
      { push pushed (push ret.low (push ret.high s)) with p := putFlag live .i true, pc := vectorWord s vector } := by
  have hn : ∀ (c : Cartridge) (a : Addr), 0x8000#16 ≤ a → ∀ reg, readResponder c a ≠ .periph reg := by
    intro c a ha reg hr
    have := (periph_window hr).2.1
    bv_omega
  have hr : ∀ (t : State) (a : Addr), 0x8000#16 ≤ a → afterRead a t = t := fun t a ha => afterRead_eq (hn _ a ha)
  have hv : ∀ a : Addr, 0x8000#16 ≤ a → busValue a (push pushed (push ret.low (push ret.high s))) = busValue a s := by
    intro a ha
    simp only [busValue, push_cart, push_draws, push_periphLog_eq]
    split <;> try rfl
    next k hk =>
      exfalso
      unfold readResponder route at hk
      split at hk
      · cases hk
      · rw [if_neg (by bv_omega), if_neg (by bv_omega)] at hk
        cases hk
  have h2 : 0x8000#16 ≤ vector + 1 := by bv_omega
  unfold takeException vectorWord
  simp only [readPair, hr _ _ h, hr _ _ h2, hv _ h, hv _ h2]

/-! What every operation keeps of the memories. -/

@[simp] theorem takeException_ram (ret : Addr) (pushed live : Byte) (vector : Addr) (s : State) :
    (takeException ret pushed live vector s).ram = (push pushed (push ret.low (push ret.high s))).ram := rfl

/-- A push keeps RAM in canonical form and inside its size. -/
theorem push_ram_ok {v : Byte} {s : State} (h : s.ram.wf = true ∧ s.ram.within 2048 = true) :
    (push v s).ram.wf = true ∧ (push v s).ram.within 2048 = true :=
  ⟨busWrite_ram_wf h.1, busWrite_ram_within h.2⟩

/-- The peripheral's accesses keep everything of the cartridge but CHR contents, and those in canonical form (R91). -/
theorem runAccesses_cart (accesses : List CartAccess) (c : Cartridge) (log : List PeriphEvent) :
    (runAccesses accesses (c, log)).1 = { c with chr := (runAccesses accesses (c, log)).1.chr } := by
  induction accesses generalizing c log with
  | nil => rfl
  | cons access rest ih =>
    cases access with
    | read addr => simpa only [runAccesses] using ih c _
    | write addr v => simpa only [runAccesses, Cartridge.writePpu] using ih (c.writePpu addr v) _

theorem chrAfterWrite_wf {c : Cartridge} (addr : Addr) (v : Byte) (h : c.chr.wf = true) : (c.chrAfterWrite addr v).wf = true := by
  unfold Cartridge.chrAfterWrite
  split
  · exact Memory.wf_write _ _ h
  · exact h

theorem chrAfterWrite_within {c : Cartridge} (addr : Addr) (v : Byte) (h : c.chr.within c.header.chrSize = true) :
    (c.chrAfterWrite addr v).within c.header.chrSize = true := by
  unfold Cartridge.chrAfterWrite
  split
  · next off hoff =>
    refine Memory.within_write ?_ h
    rcases hm : c.mapper with _ | ⟨pb, cb⟩
    · simp [hm] at hoff
    · have hcb : cb = c.header.chrChunks.toNat := by
        unfold Cartridge.mapper mapperFor at hm
        split at hm
        · split at hm <;> simp_all
        · simp at hm
      simp only [hm, Option.bind_some, Mapper.mapWritePpu] at hoff
      split at hoff
      · next hc =>
        cases hoff
        have : addr.toNat ≤ 0x1FFF := by have := hc.1; bv_omega
        simp [Header.chrSize, ← hcb, hc.2]
        omega
      · cases hoff
  · exact h

theorem runAccesses_chr_ok (accesses : List CartAccess) {c : Cartridge} (log : List PeriphEvent)
    (h : c.chr.wf = true ∧ c.chr.within c.header.chrSize = true) :
    (runAccesses accesses (c, log)).1.chr.wf = true ∧
      (runAccesses accesses (c, log)).1.chr.within c.header.chrSize = true := by
  induction accesses generalizing c log with
  | nil => exact h
  | cons access rest ih =>
    cases access with
    | read addr => exact ih _ h
    | write addr v => exact ih (c := c.writePpu addr v) _ ⟨chrAfterWrite_wf addr v h.1, chrAfterWrite_within addr v h.2⟩

/-- The memories of the state after reset are in canonical form. -/
theorem reset_memories_canonical :
    State.reset.ram.wf = true ∧ State.reset.cart.prg.wf = true ∧ State.reset.cart.chr.wf = true := by
  decide

/-- A loaded cartridge's memories are in canonical form, given the launch contents of CHR-RAM. -/
theorem load_memories_canonical (image : List Byte) {chrRamInit : Memory} (h : chrRamInit.wf = true) :
    (Cartridge.load image chrRamInit).prg.wf = true ∧ (Cartridge.load image chrRamInit).chr.wf = true := by
  refine ⟨Memory.wf_ofBytes _, ?_⟩
  unfold Cartridge.load
  simp only
  split
  · exact h
  · exact Memory.wf_ofBytes _

end Sys2Proof.Machine
end

