-- ==== Sys2Proof/Laws/Clock.lean ====
section
/-! SUPPORT. What a tick and the fetch can do, said once. -/

namespace Sys2Proof.Machine

/-- A system tick with SYSCLK mod 3 = 0: the peripheral, the CPU, the counter (R100). -/
theorem systemTick_cpu {s : State} (h : s.sysclk % 3 = 0) :
    systemTick s = onNext countTick (cpuClock (periphClock s)) :=
  congrArg (onNext countTick) (if_pos (show (periphClock s).sysclk % 3 = 0 from h))

/-- Any other system tick: the peripheral, the counter (R100). -/
theorem systemTick_idle {s : State} (h : s.sysclk % 3 ≠ 0) : systemTick s = .next (countTick (periphClock s)) :=
  congrArg (onNext countTick) (if_neg (show ¬ (periphClock s).sysclk % 3 = 0 from h))

/-- A CPU tick in the middle of an instruction only counts (R153). -/
theorem cpuClock_idle {s : State} (h : s.cyc ≠ 0) : cpuClock s = .next (countDown s) := if_neg h

/-- A CPU tick at an instruction boundary executes the next instruction (R150). -/
theorem cpuClock_boundary {s : State} (h : s.cyc = 0) : cpuClock s = onNext countDown (executeNext s) := if_pos h

/-- As many bytes are read as asked for. -/
theorem readBytes_length (n : Nat) (addr : Addr) (s : State) : (readBytes n addr s).1.length = n := by
  induction n generalizing addr s with
  | zero => rfl
  | succ n ih => simp [readBytes, ih]

/-- Reading bytes writes the oracle's two fields and nothing else (R72). -/
theorem readBytes_state (n : Nat) (addr : Addr) (s : State) :
    (readBytes n addr s).2 = { s with
      draws := (readBytes n addr s).2.draws
      periphLog := (readBytes n addr s).2.periphLog } := by
  induction n generalizing addr s with
  | zero => rfl
  | succ n ih => exact ih (addr + 1) (afterRead addr s)

/-- Fetching writes the oracle's two fields and nothing else (R108). -/
theorem fetchBytes_state (s : State) :
    (fetchBytes s).2 = { s with draws := (fetchBytes s).2.draws, periphLog := (fetchBytes s).2.periphLog } :=
  readBytes_state _ _ s

/-- The peripheral's clock writes CHR contents and the oracle's two fields, and nothing else (R345). -/
theorem periphClock_state (s : State) :
    periphClock s = { s with
      cart := { s.cart with chr := (periphClock s).cart.chr }
      draws := s.draws + 1
      periphLog := (periphClock s).periphLog } := rfl

/-- The CPU's reset, with the word at the vector (R324). -/
theorem cpuReset_eq (s : State) :
    cpuReset s = { s with
      a := 0x00, x := 0x00, y := 0x00, sp := 0xFD, p := 0x20, pc := vectorWord s 0xFFFC
      ir := 0x00, ea := 0x0000, rel := 0x0000, m := 0x00, cyc := 8 } := by
  have h : ∀ addr : Addr, 0x8000#16 ≤ addr → ∀ t : State, afterRead addr t = t := fun addr ha t =>
    afterRead_eq fun reg hr => by have := (periph_window hr).2.1; bv_omega
  unfold cpuReset resetVector vectorWord
  simp only [readPair, h 0xFFFC (by decide), h (0xFFFC + 1) (by decide)]

end Sys2Proof.Machine
end

