-- ==== Sys2Proof/Laws/Frames.lean ====
section
/-! SUPPORT. The laws of the claims' terms: what an instruction of each shape answers, and which memory and flags it keeps. -/

namespace Sys2Proof.Machine

/-! What an instruction of each shape answers. -/

/-- A well-formed reading instruction answers its operation on the state with the operand in M (R155, R173). -/
theorem runRead_next {i : Instr} (h : i.wf = true) (o : Operand) (xb : Bool) (op : State → State) (s : State) :
    runRead i o xb op s =
      .next (loadCyc ((descriptor (i.opcode?.getD 0)).base + bonus (resolverBonus o (entered i s)) xb) (op (fetched i o s))) :=
  runInstr_next h _ _ s

/-- A well-formed instruction with the Implied mode answers its operation on the state with A in M (R160). -/
theorem runImplied_next {i : Instr} (h : i.wf = true) (op : State → State) (s : State) :
    runImplied i op s = .next (loadCyc ((descriptor (i.opcode?.getD 0)).base + 0) (op { entered i s with m := s.a })) :=
  runInstr_next h _ _ s

/-! The state with the operand in M keeps everything but IR, EA, M, PC and the oracle's fields. -/

@[simp] theorem fetched_p (i : Instr) (o : Operand) (s : State) : (fetched i o s).p = s.p := by simp [fetched, entered]
@[simp] theorem fetched_a (i : Instr) (o : Operand) (s : State) : (fetched i o s).a = s.a := by simp [fetched, entered]
@[simp] theorem fetched_x (i : Instr) (o : Operand) (s : State) : (fetched i o s).x = s.x := by simp [fetched, entered]
@[simp] theorem fetched_y (i : Instr) (o : Operand) (s : State) : (fetched i o s).y = s.y := by simp [fetched, entered]
@[simp] theorem fetched_sp (i : Instr) (o : Operand) (s : State) : (fetched i o s).sp = s.sp := by simp [fetched, entered]
@[simp] theorem fetched_ram (i : Instr) (o : Operand) (s : State) : (fetched i o s).ram = s.ram := by simp [fetched, entered]
@[simp] theorem fetched_cart (i : Instr) (o : Operand) (s : State) : (fetched i o s).cart = s.cart := by simp [fetched, entered]
@[simp] theorem fetched_m (i : Instr) (o : Operand) (s : State) : (fetched i o s).m = operandByte i o s := rfl

@[simp] theorem entered_ram (i : Instr) (s : State) : (entered i s).ram = s.ram := by simp [entered]
@[simp] theorem entered_cart (i : Instr) (s : State) : (entered i s).cart = s.cart := by simp [entered]
@[simp] theorem entered_a (i : Instr) (s : State) : (entered i s).a = s.a := by simp [entered]
@[simp] theorem entered_x (i : Instr) (s : State) : (entered i s).x = s.x := by simp [entered]
@[simp] theorem entered_y (i : Instr) (s : State) : (entered i s).y = s.y := by simp [entered]
@[simp] theorem entered_sp (i : Instr) (s : State) : (entered i s).sp = s.sp := by simp [entered]
@[simp] theorem entered_p (i : Instr) (s : State) : (entered i s).p = s.p := by simp [entered]

/-- What a reading instruction leaves beside its own effect is the state its operation ran on, with CYC. -/
theorem operandDone_eq (i : Instr) (o : Operand) (n : Nat) (s : State) : operandDone i o n s = loadCyc n (fetched i o s) := by
  have h := loadOperand_eq o (entered i s)
  unfold operandDone addressDone operandByte fetched operandAddr
  rw [h]
  rfl

/-- What an instruction with the Implied mode leaves beside its own effect is the state its operation ran on, with CYC. -/
theorem impliedDone_eq {i : Instr} (h : i.mode = .imp) (n : Nat) (s : State) :
    impliedDone i n s = loadCyc n { entered i s with m := s.a } := by
  unfold impliedDone entered Instr.length
  rw [h]
  rfl

/-- A well-formed read-modify-write instruction answers the written-back result on the state with the operand in M, with the
new status (R214, R223, R224). -/
theorem runModify_next {i : Instr} (h : i.wf = true) (o : Operand) (f g : Byte → Byte → Byte) (s : State) :
    runModify i o f g s =
      .next (loadCyc ((descriptor (i.opcode?.getD 0)).base + bonus (resolverBonus o (entered i s)) false)
        (writeBack o (f s.p (operandByte i o s)) { fetched i o s with p := g s.p (operandByte i o s) })) := by
  unfold runModify
  rw [runInstr_next h, ← fetched_p i o s]
  rfl

/-! Memory kept. -/

/-- A state with the same RAM and the same cartridge reads the same outside the window. -/
theorem memoryKept_of {s t : State} (hr : t.ram = s.ram) (hc : t.cart = s.cart) : MemoryKept s t := by
  intro addr hw
  apply busValue_congr_memory hr hc
  intro reg h
  have := periph_window h
  unfold inWindow at hw
  simp [this.1, this.2.1] at hw

/-- In the window the peripheral answers, with the register that the low three bits select. -/
theorem inWindow_periph {c : Cartridge} {a : Addr} (h : inWindow a = true) : readResponder c a = .periph (a.setWidth 3) := by
  simp only [inWindow, Bool.and_eq_true, decide_eq_true_eq] at h
  exact readResponder_periph c h.1 h.2

/-- Outside it the peripheral does not. -/
theorem not_periph_of_not_inWindow {c : Cartridge} {a : Addr} (h : inWindow a = false) (reg : BitVec 3) :
    readResponder c a ≠ .periph reg := by
  intro hr
  have := periph_window hr
  simp [inWindow, this.1, this.2.1] at h

/-- RAM answers below 0x2000 only. -/
theorem ram_responder {c : Cartridge} {a : Addr} {k : Nat} (h : readResponder c a = .ram k) : a ≤ 0x1FFF#16 ∧ k = ramIndex a := by
  by_cases ha : a ≤ 0x1FFF#16
  · rw [readResponder_ram c ha] at h; cases h; exact ⟨ha, rfl⟩
  · exfalso
    unfold readResponder route at h
    split at h
    · cases h
    · rw [if_neg ha] at h; split at h <;> cases h

/-- The same RAM byte, as the RAM index says it (R66). -/
theorem sameRamByte_iff (a b : Addr) : sameRamByte a b ↔ a ≤ 0x1FFF#16 ∧ b ≤ 0x1FFF#16 ∧ ramIndex a = ramIndex b := by
  unfold sameRamByte ramIndex
  rw [BitVec.toNat_inj]

/-- One bus write keeps every byte but the one it stores. -/
theorem memoryKeptBut_of {E : Addr} {v : Byte} {s t u : State} (hr : t.ram = (busWrite E v u).ram) (hc : t.cart = s.cart)
    (ur : u.ram = s.ram) : MemoryKeptBut E s t := by
  intro a hw hs
  by_cases hE : E ≤ 0x1FFF#16
  · rw [busWrite_ram_of _ _ hE] at hr
    unfold busValue
    rw [hc]
    split
    · rfl
    · next k hk =>
      obtain ⟨ha, rfl⟩ := ram_responder hk
      rw [hr, ur]
      apply Memory.read_write_other
      intro he
      exact hs ((sameRamByte_iff _ _).2 ⟨hE, ha, he.symm⟩)
    · next r hr => exact absurd hr (not_periph_of_not_inWindow hw r)
    · rfl
  · apply busValue_congr_memory _ hc (not_periph_of_not_inWindow hw)
    rw [hr]
    have : ∀ k, readResponder u.cart E ≠ .ram k := fun k hk => hE (ram_responder hk).1
    simp only [busWrite, writeResponder_eq]
    exact ur

/-- One bus write is one stored byte. -/
theorem storedAt_of {E : Addr} {v : Byte} {log : List PeriphEvent} {s t u : State} (hr : t.ram = (busWrite E v u).ram)
    (hc : t.cart = s.cart) (ur : u.ram = s.ram) (hl : t.periphLog = (busWrite E v u).periphLog) (ul : u.periphLog = log) :
    StoredAt E v log s t := by
  refine ⟨fun wf hE => ?_, memoryKeptBut_of hr hc ur, ?_⟩
  · rw [busValue_ram _ hE, hr, busWrite_ram_of _ _ hE, ur, Memory.read_write wf, if_pos rfl]
  · rw [hl]
    simp only [busWrite, writeResponder_eq]
    cases hw : inWindow E with
    | true => rw [inWindow_periph hw]; simp [ul]
    | false =>
      split
      · next r hr => exact absurd hr (not_periph_of_not_inWindow hw r)
      · simp [ul]

/-! Flags. -/

/-- `setZN` writes Zero and Negative from the value, and nothing else (R12). -/
theorem zeroNegativeFrom_setZN (p v : Byte) : ZeroNegativeFrom v p (setZN p v) := by
  refine ⟨by simp [getFlag_setZN], by simp [getFlag_setZN, bit7], fun f hf => ?_⟩
  simp only [List.mem_cons, List.not_mem_nil, or_false, not_or] at hf
  rw [getFlag_setZN, if_neg hf.2, if_neg hf.1]

/-- A shift writes Carry, and Zero and Negative from the result, and nothing else (R214). -/
theorem carryZeroNegativeFrom_shiftFlags (p r : Byte) (out : Bool) : CarryZeroNegativeFrom out r p (shiftFlags p r out) := by
  refine ⟨?_, ?_, ?_, ?_⟩
  · simp [shiftFlags, getFlag_setZN]
  · simp [shiftFlags, getFlag_setZN]
  · simp [shiftFlags, getFlag_setZN, bit7]
  · intro f hf
    simp only [List.mem_cons, List.not_mem_nil, or_false, not_or] at hf
    simp [shiftFlags, getFlag_setZN, getFlag_putFlag, hf]

/-- Writing one flag writes one flag. -/
theorem oneFlagWritten_putFlag (f : Flag) (v : Bool) (p : Byte) : OneFlagWritten f v p (putFlag p f v) :=
  ⟨getFlag_putFlag_same p f v, fun g hg => getFlag_putFlag_other p v (by simpa using hg)⟩

/-- The flags after ADC's flag computation (R190). -/
theorem getFlag_addFlags (p a m : Byte) (f : Flag) :
    getFlag (addFlags p a m) f =
      match f with
      | .c => addCarry a m (getFlag p .c)
      | .z => decide (addResult a m (getFlag p .c) = 0)
      | .v => addOverflow a m (getFlag p .c)
      | .n => (addResult a m (getFlag p .c)).getLsbD 7
      | f => getFlag p f := by
  cases f <;> simp [addFlags, getFlag_putFlag, bit7]

end Sys2Proof.Machine
end

