-- ==== Sys2Proof/Laws/PerInstr.lean ====
section
/-! SUPPORT. The per-instruction family `EncodedLength`: the bytes of a well-formed instruction are as many as its mode has
(R124). -/

namespace Sys2Proof.Laws.EncodedLength

/-- The encoder lays down as many bytes as R124 gives the instruction's mode. -/
def Statement (i : Instr) : Prop := i.wf = true → (encode i).length = i.length

theorem adc (o : Operand) : Statement (.adc o) := by
  cases o <;> simp [Statement, Instr.wf, Instr.op, Instr.mode, Operand.mode, Op.modes, encode, Instr.opcode?, adcOpcode,
    Instr.operandBytes, Operand.bytes, Instr.length, Mode.length]

theorem and (o : Operand) : Statement (.and o) := by
  cases o <;> simp [Statement, Instr.wf, Instr.op, Instr.mode, Operand.mode, Op.modes, encode, Instr.opcode?, andOpcode,
    Instr.operandBytes, Operand.bytes, Instr.length, Mode.length]

theorem asl (o : Operand) : Statement (.asl o) := by
  cases o <;> simp [Statement, Instr.wf, Instr.op, Instr.mode, Operand.mode, Op.modes, encode, Instr.opcode?, aslOpcode,
    Instr.operandBytes, Operand.bytes, Instr.length, Mode.length]

theorem bcc (rel8 : Byte) : Statement (.bcc rel8) := fun _ => rfl

theorem bcs (rel8 : Byte) : Statement (.bcs rel8) := fun _ => rfl

theorem beq (rel8 : Byte) : Statement (.beq rel8) := fun _ => rfl

theorem bit (o : Operand) : Statement (.bit o) := by
  cases o <;> simp [Statement, Instr.wf, Instr.op, Instr.mode, Operand.mode, Op.modes, encode, Instr.opcode?, bitOpcode,
    Instr.operandBytes, Operand.bytes, Instr.length, Mode.length]

theorem bmi (rel8 : Byte) : Statement (.bmi rel8) := fun _ => rfl

theorem bne (rel8 : Byte) : Statement (.bne rel8) := fun _ => rfl

theorem bpl (rel8 : Byte) : Statement (.bpl rel8) := fun _ => rfl

theorem brk : Statement .brk := fun _ => rfl

theorem bvc (rel8 : Byte) : Statement (.bvc rel8) := fun _ => rfl

theorem bvs (rel8 : Byte) : Statement (.bvs rel8) := fun _ => rfl

theorem clc : Statement .clc := fun _ => rfl

theorem cld : Statement .cld := fun _ => rfl

theorem cli : Statement .cli := fun _ => rfl

theorem clv : Statement .clv := fun _ => rfl

theorem cmp (o : Operand) : Statement (.cmp o) := by
  cases o <;> simp [Statement, Instr.wf, Instr.op, Instr.mode, Operand.mode, Op.modes, encode, Instr.opcode?, cmpOpcode,
    Instr.operandBytes, Operand.bytes, Instr.length, Mode.length]

theorem cpx (o : Operand) : Statement (.cpx o) := by
  cases o <;> simp [Statement, Instr.wf, Instr.op, Instr.mode, Operand.mode, Op.modes, encode, Instr.opcode?, cpxOpcode,
    Instr.operandBytes, Operand.bytes, Instr.length, Mode.length]

theorem cpy (o : Operand) : Statement (.cpy o) := by
  cases o <;> simp [Statement, Instr.wf, Instr.op, Instr.mode, Operand.mode, Op.modes, encode, Instr.opcode?, cpyOpcode,
    Instr.operandBytes, Operand.bytes, Instr.length, Mode.length]

theorem dec (o : Operand) : Statement (.dec o) := by
  cases o <;> simp [Statement, Instr.wf, Instr.op, Instr.mode, Operand.mode, Op.modes, encode, Instr.opcode?, decOpcode,
    Instr.operandBytes, Operand.bytes, Instr.length, Mode.length]

theorem dex : Statement .dex := fun _ => rfl

theorem dey : Statement .dey := fun _ => rfl

theorem eor (o : Operand) : Statement (.eor o) := by
  cases o <;> simp [Statement, Instr.wf, Instr.op, Instr.mode, Operand.mode, Op.modes, encode, Instr.opcode?, eorOpcode,
    Instr.operandBytes, Operand.bytes, Instr.length, Mode.length]

theorem inc (o : Operand) : Statement (.inc o) := by
  cases o <;> simp [Statement, Instr.wf, Instr.op, Instr.mode, Operand.mode, Op.modes, encode, Instr.opcode?, incOpcode,
    Instr.operandBytes, Operand.bytes, Instr.length, Mode.length]

theorem inx : Statement .inx := fun _ => rfl

theorem iny : Statement .iny := fun _ => rfl

theorem jmp (o : Operand) : Statement (.jmp o) := by
  cases o <;> simp [Statement, Instr.wf, Instr.op, Instr.mode, Operand.mode, Op.modes, encode, Instr.opcode?, jmpOpcode,
    Instr.operandBytes, Operand.bytes, Instr.length, Mode.length]

theorem jsr (target : Addr) : Statement (.jsr target) := fun _ => rfl

theorem lda (o : Operand) : Statement (.lda o) := by
  cases o <;> simp [Statement, Instr.wf, Instr.op, Instr.mode, Operand.mode, Op.modes, encode, Instr.opcode?, ldaOpcode,
    Instr.operandBytes, Operand.bytes, Instr.length, Mode.length]

theorem ldx (o : Operand) : Statement (.ldx o) := by
  cases o <;> simp [Statement, Instr.wf, Instr.op, Instr.mode, Operand.mode, Op.modes, encode, Instr.opcode?, ldxOpcode,
    Instr.operandBytes, Operand.bytes, Instr.length, Mode.length]

theorem ldy (o : Operand) : Statement (.ldy o) := by
  cases o <;> simp [Statement, Instr.wf, Instr.op, Instr.mode, Operand.mode, Op.modes, encode, Instr.opcode?, ldyOpcode,
    Instr.operandBytes, Operand.bytes, Instr.length, Mode.length]

theorem lsr (o : Operand) : Statement (.lsr o) := by
  cases o <;> simp [Statement, Instr.wf, Instr.op, Instr.mode, Operand.mode, Op.modes, encode, Instr.opcode?, lsrOpcode,
    Instr.operandBytes, Operand.bytes, Instr.length, Mode.length]

theorem nop (opcode : Byte) : Statement (.nop opcode) := by
  intro h
  simp_all [Instr.wf, encode, Instr.opcode?, Instr.operandBytes, Instr.length, Instr.mode, Mode.length]

theorem ora (o : Operand) : Statement (.ora o) := by
  cases o <;> simp [Statement, Instr.wf, Instr.op, Instr.mode, Operand.mode, Op.modes, encode, Instr.opcode?, oraOpcode,
    Instr.operandBytes, Operand.bytes, Instr.length, Mode.length]

theorem pha : Statement .pha := fun _ => rfl

theorem php : Statement .php := fun _ => rfl

theorem pla : Statement .pla := fun _ => rfl

theorem plp : Statement .plp := fun _ => rfl

theorem rol (o : Operand) : Statement (.rol o) := by
  cases o <;> simp [Statement, Instr.wf, Instr.op, Instr.mode, Operand.mode, Op.modes, encode, Instr.opcode?, rolOpcode,
    Instr.operandBytes, Operand.bytes, Instr.length, Mode.length]

theorem ror (o : Operand) : Statement (.ror o) := by
  cases o <;> simp [Statement, Instr.wf, Instr.op, Instr.mode, Operand.mode, Op.modes, encode, Instr.opcode?, rorOpcode,
    Instr.operandBytes, Operand.bytes, Instr.length, Mode.length]

theorem rti : Statement .rti := fun _ => rfl

theorem rts : Statement .rts := fun _ => rfl

theorem sbc (o : Operand) : Statement (.sbc o) := by
  cases o <;> simp [Statement, Instr.wf, Instr.op, Instr.mode, Operand.mode, Op.modes, encode, Instr.opcode?, sbcOpcode,
    Instr.operandBytes, Operand.bytes, Instr.length, Mode.length]

theorem sec : Statement .sec := fun _ => rfl

theorem sed : Statement .sed := fun _ => rfl

theorem sei : Statement .sei := fun _ => rfl

theorem sta (o : Operand) : Statement (.sta o) := by
  cases o <;> simp [Statement, Instr.wf, Instr.op, Instr.mode, Operand.mode, Op.modes, encode, Instr.opcode?, staOpcode,
    Instr.operandBytes, Operand.bytes, Instr.length, Mode.length]

theorem stx (o : Operand) : Statement (.stx o) := by
  cases o <;> simp [Statement, Instr.wf, Instr.op, Instr.mode, Operand.mode, Op.modes, encode, Instr.opcode?, stxOpcode,
    Instr.operandBytes, Operand.bytes, Instr.length, Mode.length]

theorem sty (o : Operand) : Statement (.sty o) := by
  cases o <;> simp [Statement, Instr.wf, Instr.op, Instr.mode, Operand.mode, Op.modes, encode, Instr.opcode?, styOpcode,
    Instr.operandBytes, Operand.bytes, Instr.length, Mode.length]

theorem tax : Statement .tax := fun _ => rfl

theorem tay : Statement .tay := fun _ => rfl

theorem tsx : Statement .tsx := fun _ => rfl

theorem txa : Statement .txa := fun _ => rfl

theorem txs : Statement .txs := fun _ => rfl

theorem tya : Statement .tya := fun _ => rfl

theorem xxx (opcode : Byte) : Statement (.xxx opcode) := by
  intro h
  simp_all [Instr.wf, encode, Instr.opcode?, Instr.operandBytes, Instr.length, Instr.mode, Mode.length]

end Sys2Proof.Laws.EncodedLength
end

