-- ==== Sys2Proof/Tests/Slice0.lean ====
section
/-! SUPPORT. The model's own tests. Expected results come from spec/95_test_vectors.md (its section numbers stand at each
group), from the encoding tables that head the instruction rules, and from the rules named. After them the witnesses: for
every statement with hypotheses, states and operands that meet them all together. -/

namespace Sys2Proof.Tests

open Sys2Proof Sys2Proof.Machine

/-! Well-formedness: an ill-formed term for each check, which the check refuses. -/

theorem test_wf_refuses_a_mode_the_mnemonic_lacks : (Instr.sta (.imm 0x10)).wf = false := by decide
theorem test_wf_refuses_a_byte_that_is_no_nop : (Instr.nop 0x00).wf = false := by decide
theorem test_wf_refuses_a_byte_that_is_no_xxx : (Instr.xxx 0xEA).wf = false := by decide
theorem test_wf_accepts_one_of_each :
    (Instr.sta (.abs 0x0200)).wf = true ∧ (Instr.nop 0x1A).wf = true ∧ (Instr.xxx 0x02).wf = true := by decide
theorem test_exec_refuses_an_ill_formed_term :
    exec (.sta (.imm 0x10)) State.reset = .refused .illFormed := by rfl

/-! Decoding: one word of every constructor, from the encoding tables of R190 to R309. -/

theorem test_decode_arithmetic :
    decode [0x6D, 0x34, 0x12] = .ok (.adc (.abs 0x1234), []) ∧ decode [0xF9, 0xFF, 0x02] = .ok (.sbc (.aby 0x02FF), []) :=
  ⟨rfl, rfl⟩
theorem test_decode_logical :
    decode [0x35, 0x10] = .ok (.and (.zpx 0x10), []) ∧ decode [0x0D, 0x00, 0x20] = .ok (.ora (.abs 0x2000), []) ∧
    decode [0x41, 0x20] = .ok (.eor (.izx 0x20), []) ∧ decode [0x2C, 0x00, 0x02] = .ok (.bit (.abs 0x0200), []) :=
  ⟨rfl, rfl, rfl, rfl⟩
theorem test_decode_shifts :
    decode [0x0A] = .ok (.asl .acc, []) ∧ decode [0x56, 0x10] = .ok (.lsr (.zpx 0x10), []) ∧
    decode [0x2E, 0x00, 0x02] = .ok (.rol (.abs 0x0200), []) ∧ decode [0x7E, 0xFF, 0x02] = .ok (.ror (.abx 0x02FF), []) :=
  ⟨rfl, rfl, rfl, rfl⟩
theorem test_decode_compares :
    decode [0xD1, 0x86] = .ok (.cmp (.izy 0x86), []) ∧ decode [0xE4, 0x10] = .ok (.cpx (.zp0 0x10), []) ∧
    decode [0xCC, 0x00, 0x02] = .ok (.cpy (.abs 0x0200), []) :=
  ⟨rfl, rfl, rfl⟩
theorem test_decode_increments :
    decode [0xFE, 0xFF, 0x02] = .ok (.inc (.abx 0x02FF), []) ∧ decode [0xC6, 0x11] = .ok (.dec (.zp0 0x11), []) ∧
    decode [0xE8] = .ok (.inx, []) ∧ decode [0xC8] = .ok (.iny, []) ∧
    decode [0xCA] = .ok (.dex, []) ∧ decode [0x88] = .ok (.dey, []) :=
  ⟨rfl, rfl, rfl, rfl, rfl, rfl⟩
theorem test_decode_branches :
    decode [0x90, 0x02] = .ok (.bcc 0x02, []) ∧ decode [0xB0, 0x10] = .ok (.bcs 0x10, []) ∧
    decode [0xF0, 0xFE] = .ok (.beq 0xFE, []) ∧ decode [0xD0, 0xFB] = .ok (.bne 0xFB, []) ∧
    decode [0x30, 0x7F] = .ok (.bmi 0x7F, []) ∧ decode [0x10, 0x80] = .ok (.bpl 0x80, []) ∧
    decode [0x50, 0x00] = .ok (.bvc 0x00, []) ∧ decode [0x70, 0x0E] = .ok (.bvs 0x0E, []) :=
  ⟨rfl, rfl, rfl, rfl, rfl, rfl, rfl, rfl⟩
theorem test_decode_stack_and_jumps :
    decode [0x00] = .ok (.brk, []) ∧ decode [0x48] = .ok (.pha, []) ∧ decode [0x08] = .ok (.php, []) ∧
    decode [0x68] = .ok (.pla, []) ∧ decode [0x28] = .ok (.plp, []) ∧ decode [0x4C, 0x34, 0x12] = .ok (.jmp (.abs 0x1234), []) ∧
    decode [0x6C, 0xFF, 0x02] = .ok (.jmp (.ind 0x02FF), []) ∧ decode [0x20, 0x00, 0x90] = .ok (.jsr 0x9000, []) ∧
    decode [0x60] = .ok (.rts, []) ∧ decode [0x40] = .ok (.rti, []) :=
  ⟨rfl, rfl, rfl, rfl, rfl, rfl, rfl, rfl, rfl, rfl⟩
theorem test_decode_loads_and_stores :
    decode [0xA9, 0x80] = .ok (.lda (.imm 0x80), []) ∧ decode [0xB6, 0xFF] = .ok (.ldx (.zpy 0xFF), []) ∧
    decode [0xBC, 0xFF, 0x02] = .ok (.ldy (.abx 0x02FF), []) ∧ decode [0x99, 0x00, 0x02] = .ok (.sta (.aby 0x0200), []) ∧
    decode [0x96, 0x10] = .ok (.stx (.zpy 0x10), []) ∧ decode [0x94, 0xFF] = .ok (.sty (.zpx 0xFF), []) :=
  ⟨rfl, rfl, rfl, rfl, rfl, rfl⟩
theorem test_decode_transfers :
    decode [0xAA] = .ok (.tax, []) ∧ decode [0xA8] = .ok (.tay, []) ∧ decode [0x8A] = .ok (.txa, []) ∧
    decode [0x98] = .ok (.tya, []) ∧ decode [0xBA] = .ok (.tsx, []) ∧ decode [0x9A] = .ok (.txs, []) :=
  ⟨rfl, rfl, rfl, rfl, rfl, rfl⟩
theorem test_decode_flags :
    decode [0x18] = .ok (.clc, []) ∧ decode [0xD8] = .ok (.cld, []) ∧ decode [0x58] = .ok (.cli, []) ∧
    decode [0xB8] = .ok (.clv, []) ∧ decode [0x38] = .ok (.sec, []) ∧ decode [0xF8] = .ok (.sed, []) ∧
    decode [0x78] = .ok (.sei, []) :=
  ⟨rfl, rfl, rfl, rfl, rfl, rfl, rfl⟩
theorem test_decode_nop_and_xxx :
    decode [0xEA] = .ok (.nop 0xEA, []) ∧ decode [0x1C, 0x55] = .ok (.nop 0x1C, [0x55]) ∧
    decode [0x02] = .ok (.xxx 0x02, []) ∧ decode [0xFF] = .ok (.xxx 0xFF, []) :=
  ⟨rfl, rfl, rfl, rfl⟩
theorem test_decode_refuses_missing_bytes :
    decode [] = .error .noOpcode ∧ decode [0x4C, 0x00] = .error (.truncated 0x4C) := ⟨rfl, rfl⟩
theorem test_decode_table_word :
    decodeTableWord 8 0xA9 = some (.lda (.imm 0x00)) ∧ decodeTableWord 24 0x12344C = some (.jmp (.abs 0x1234)) := by decide
theorem test_encode : encode (.jmp (.ind 0x30FF)) = [0x6C, 0xFF, 0x30] ∧ encode (.bne 0xFB) = [0xD0, 0xFB] := by decide

/-! One instruction on a small machine: the conventions at the head of 95_test_vectors.md. -/

/-- A one-bank cartridge with these PRG bytes from 0x8000 on and the vectors nmi 0x8120, reset 0x8000, irq 0x9000. -/
def testCart (program : List Byte) : Cartridge :=
  { Cartridge.blank with
    prg := Memory.ofBytes program ++ [(0x3FFA, 0x20), (0x3FFB, 0x81), (0x3FFD, 0x80), (0x3FFF, 0x90)] }

/-- The machine at an instruction boundary, with these RAM bytes. -/
def machine (pc : Addr) (ram : Memory) : State := { State.reset with pc, ram, cyc := 0, cart := testCart [] }

/-- The state an instruction leaves. -/
def after (i : Instr) (s : State) : State :=
  match exec i s with
  | .next t => t
  | _ => s

/-! 2.1 Arithmetic. -/

theorem test_adc_overflow :
    let t := after (.adc (.imm 0x50)) { machine 0x8000 [] with a := 0x50 }
    t.a = 0xA0 ∧ t.p = 0xE0 ∧ t.pc = 0x8002 ∧ t.cyc = 2 := by decide
theorem test_adc_carry_in_and_out :
    let t := after (.adc (.imm 0xFF)) { machine 0x8000 [] with a := 0xFF, p := 0x21 }
    t.a = 0xFF ∧ t.p = 0xA1 := by decide
theorem test_sbc_borrow :
    let t := after (.sbc (.imm 0x01)) { machine 0x8000 [] with p := 0x21 }
    t.a = 0xFF ∧ t.p = 0xA0 ∧ t.cyc = 2 := by decide
theorem test_sbc_decimal_flag_ignored :
    let t := after (.sbc (.imm 0x01)) { machine 0x8000 [] with a := 0x10, p := 0x29 }
    t.a = 0x0F ∧ t.p = 0x29 := by decide

/-! 2.2 Logical. -/

theorem test_and_keeps_carry :
    let t := after (.and (.imm 0x0F)) { machine 0x8000 [] with a := 0xF0, p := 0xA1 }
    t.a = 0x00 ∧ t.p = 0x23 := by decide
theorem test_ora :
    let t := after (.ora (.imm 0x80)) { machine 0x8000 [] with a := 0x01 }
    t.a = 0x81 ∧ t.p = 0xA0 := by decide
theorem test_eor :
    let t := after (.eor (.imm 0xFF)) { machine 0x8000 [] with a := 0xAA }
    t.a = 0x55 ∧ t.p = 0x20 := by decide
theorem test_bit_flags_from_the_operand :
    let t := after (.bit (.zp0 0x10)) { machine 0x8000 [(0x10, 0xC0)] with a := 0x01 }
    t.a = 0x01 ∧ t.p = 0xE2 ∧ t.cyc = 3 := by decide
theorem test_bit_clears_them :
    let t := after (.bit (.zp0 0x10)) { machine 0x8000 [(0x10, 0x3F)] with a := 0xFF, p := 0xE0 }
    t.a = 0xFF ∧ t.p = 0x20 := by decide

/-! 2.3 Shifts and rotates. -/

theorem test_asl_ignores_the_carry :
    let t := after (.asl .acc) { machine 0x8000 [] with a := 0x40, p := 0x21 }
    t.a = 0x80 ∧ t.p = 0xA0 ∧ t.pc = 0x8001 ∧ t.cyc = 2 ∧ t.ram = [] := by decide
theorem test_asl_memory :
    let t := after (.asl (.zp0 0x10)) (machine 0x8000 [(0x10, 0xC0)])
    t.ram = [(0x10, 0x80)] ∧ t.a = 0x00 ∧ t.p = 0xA1 ∧ t.cyc = 5 := by decide
theorem test_lsr :
    let t := after (.lsr .acc) { machine 0x8000 [] with a := 0x01 }
    t.a = 0x00 ∧ t.p = 0x23 := by decide
theorem test_rol_memory :
    let t := after (.rol (.abs 0x0200)) { machine 0x8000 [(0x200, 0x7F)] with p := 0x21 }
    t.ram = [(0x200, 0xFF)] ∧ t.p = 0xA0 ∧ t.cyc = 6 := by decide
theorem test_ror_indexed_no_bonus :
    let t := after (.ror (.abx 0x02FF)) { machine 0x8000 [] with x := 0x01, p := 0x21 }
    t.ram = [(0x300, 0x80)] ∧ t.p = 0xA0 ∧ t.cyc = 7 := by decide

/-! 2.4 Compare. -/

theorem test_cmp_keeps_overflow :
    let t := after (.cmp (.imm 0x01)) { machine 0x8000 [] with a := 0x80, p := 0x60 }
    t.a = 0x80 ∧ t.p = 0x61 := by decide
theorem test_cmp_izy :
    let t := after (.cmp (.izy 0x86)) { machine 0x8000 [(0x86, 0xF8), (0x87, 0x02), (0x308, 0x66)] with a := 0x66, y := 0x10 }
    t.p = 0x23 ∧ t.cyc = 6 := by decide
theorem test_cpx :
    (after (.cpx (.imm 0xFF)) (machine 0x8000 [])).p = 0x20 := by decide
theorem test_cpy :
    (after (.cpy (.imm 0x7F)) { machine 0x8000 [] with y := 0x80 }).p = 0x21 := by decide

/-! 2.5 Increment and decrement. -/

theorem test_inc_wraps :
    let t := after (.inc (.zp0 0x10)) { machine 0x8000 [(0x10, 0xFF)] with p := 0x21 }
    t.ram = [] ∧ t.p = 0x23 ∧ t.cyc = 5 := by decide
theorem test_dec_wraps :
    let t := after (.dec (.zp0 0x10)) { machine 0x8000 [] with p := 0x21 }
    t.ram = [(0x10, 0xFF)] ∧ t.p = 0xA1 := by decide
theorem test_inx : let t := after .inx { machine 0x8000 [] with x := 0x7F, p := 0x21 }; t.x = 0x80 ∧ t.p = 0xA1 := by decide
theorem test_iny : let t := after .iny { machine 0x8000 [] with y := 0xFF, p := 0x21 }; t.y = 0x00 ∧ t.p = 0x23 := by decide
theorem test_dex : let t := after .dex { machine 0x8000 [] with p := 0x21 }; t.x = 0xFF ∧ t.p = 0xA1 := by decide
theorem test_dey : let t := after .dey { machine 0x8000 [] with y := 0x80, p := 0x21 }; t.y = 0x7F ∧ t.p = 0x21 := by decide

/-! 2.6 Branches. -/

theorem test_bcc_not_taken :
    let t := after (.bcc 0x02) { machine 0x8000 [] with p := 0x21 }
    t.pc = 0x8002 ∧ t.cyc = 2 ∧ t.rel = 0x0002 := by decide
theorem test_bcc_taken : let t := after (.bcc 0x02) (machine 0x8000 []); t.pc = 0x8004 ∧ t.cyc = 3 := by decide
theorem test_bcs_page_of_the_next_instruction :
    let t := after (.bcs 0x10) { machine 0x80FD [] with p := 0x21 }
    t.pc = 0x810F ∧ t.cyc = 4 := by decide
theorem test_beq_backwards_across_a_page :
    let t := after (.beq 0xFD) { machine 0x8100 [] with p := 0x22 }
    t.pc = 0x80FF ∧ t.cyc = 4 := by decide
theorem test_bne_into_the_next_page_not_crossed :
    let t := after (.bne 0x00) (machine 0x80FE [])
    t.pc = 0x8100 ∧ t.cyc = 3 := by decide
theorem test_bmi : let t := after (.bmi 0x7F) { machine 0x8000 [] with p := 0xA0 }; t.pc = 0x8081 ∧ t.cyc = 3 := by decide
theorem test_bpl : let t := after (.bpl 0x80) (machine 0x8000 []); t.pc = 0x7F82 ∧ t.cyc = 4 := by decide
theorem test_bvc : let t := after (.bvc 0x00) (machine 0x9000 []); t.pc = 0x9002 ∧ t.cyc = 3 := by decide
theorem test_bvs : let t := after (.bvs 0x0E) { machine 0xBFF0 [] with p := 0x60 }; t.pc = 0xC000 ∧ t.cyc = 4 := by decide

/-! 2.7 Addressing modes. -/

theorem test_lda_page_cross :
    let t := after (.lda (.abx 0x02FF)) { machine 0x8000 [(0x300, 0x5A)] with x := 0x01 }
    t.a = 0x5A ∧ t.ea = 0x0300 ∧ t.pc = 0x8003 ∧ t.cyc = 5 := by decide
theorem test_lda_pointer_wraps_in_page_zero :
    let t := after (.lda (.izx 0xFE)) { machine 0x8000 [(0x00, 0x02), (0xFF, 0x34), (0x234, 0x22)] with x := 0x01 }
    t.a = 0x22 ∧ t.ea = 0x0234 ∧ t.cyc = 6 := by decide
theorem test_ldx_zero_page_wraps :
    let t := after (.ldx (.zpy 0xFF)) { machine 0x8000 [(0x00, 0x33)] with y := 0x01 }
    t.x = 0x33 ∧ t.ea = 0x0000 ∧ t.cyc = 4 := by decide
theorem test_ldy_zero :
    let t := after (.ldy (.abx 0x02FF)) { machine 0x8000 [] with x := 0x01, y := 0x55 }
    t.y = 0x00 ∧ t.p = 0x22 ∧ t.cyc = 5 := by decide
theorem test_sta_no_bonus :
    let t := after (.sta (.izy 0x86)) { machine 0x8000 [(0x86, 0xF8), (0x87, 0x02)] with a := 0xAD, y := 0x10 }
    t.ram = [(0x86, 0xF8), (0x87, 0x02), (0x308, 0xAD)] ∧ t.p = 0x20 ∧ t.cyc = 6 := by decide
theorem test_stx :
    let t := after (.stx (.zpy 0x10)) { machine 0x8000 [] with x := 0x07, y := 0xF8 }
    t.ram = [(0x08, 0x07)] ∧ t.cyc = 4 := by decide
theorem test_sty :
    let t := after (.sty (.zpx 0xFF)) { machine 0x8000 [] with x := 0x02, y := 0xFF }
    t.ram = [(0x01, 0xFF)] ∧ t.cyc = 4 := by decide

/-! 2.8 BRK, stack and jumps. -/

theorem test_pha_wraps :
    let t := after .pha { machine 0x8003 [] with a := 0x42, sp := 0x00 }
    t.ram = [(0x100, 0x42)] ∧ t.sp = 0xFF ∧ t.cyc = 3 := by decide
theorem test_php : let t := after .php { machine 0x8003 [] with p := 0xE5 }; t.ram = [(0x1FD, 0xF5)] ∧ t.p = 0xE5 := by decide
theorem test_pla :
    let t := after .pla { machine 0x8003 [(0x100, 0x80)] with sp := 0xFF }
    t.a = 0x80 ∧ t.sp = 0x00 ∧ t.p = 0xA0 ∧ t.cyc = 4 := by decide
theorem test_plp :
    let t := after .plp { machine 0x8003 [(0x1FD, 0x10)] with sp := 0xFC, p := 0xEF }
    t.p = 0x30 ∧ t.sp = 0xFD ∧ t.cyc = 4 := by decide
theorem test_jmp : let t := after (.jmp (.abs 0x1234)) (machine 0x8003 []); t.pc = 0x1234 ∧ t.cyc = 3 := by decide
theorem test_jmp_indirect_page_bug :
    let t := after (.jmp (.ind 0x02FF)) (machine 0x8003 [(0x200, 0x80), (0x2FF, 0x40), (0x300, 0x90)])
    t.pc = 0x8040 ∧ t.cyc = 5 := by decide
theorem test_jsr :
    let t := after (.jsr 0x9000) (machine 0x8003 [])
    t.ram = [(0x1FC, 0x05), (0x1FD, 0x80)] ∧ t.sp = 0xFB ∧ t.pc = 0x9000 ∧ t.cyc = 6 := by decide
theorem test_rts_wraps :
    let t := after .rts { machine 0x8003 [(0x1FC, 0xFF), (0x1FD, 0xFF)] with sp := 0xFB }
    t.pc = 0x0000 ∧ t.sp = 0xFD ∧ t.cyc = 6 := by decide
theorem test_rti :
    let t := after .rti { machine 0x8003 [(0x1FB, 0xCF), (0x1FD, 0x90)] with sp := 0xFA, p := 0x24 }
    t.pc = 0x9000 ∧ t.sp = 0xFD ∧ t.p = 0xEF ∧ t.cyc = 6 := by decide
theorem test_brk_wraps :
    let t := after .brk { machine 0x8003 [] with p := 0xE4, sp := 0x01 }
    t.ram = [(0x100, 0x05), (0x101, 0x80), (0x1FF, 0xF4)] ∧ t.sp = 0xFE ∧ t.p = 0xE4 ∧ t.pc = 0x9000 ∧ t.cyc = 7 := by decide

/-! 2.9 Transfers, flags, NOP, XXX. -/

theorem test_tax : let t := after .tax { machine 0x8000 [] with x := 0x55 }; t.x = 0x00 ∧ t.p = 0x22 := by decide
theorem test_tay : let t := after .tay { machine 0x8000 [] with a := 0x90 }; t.y = 0x90 ∧ t.p = 0xA0 := by decide
theorem test_txa : let t := after .txa { machine 0x8000 [] with x := 0x7F, a := 0xFF, p := 0xA0 }; t.a = 0x7F ∧ t.p = 0x20 := by decide
theorem test_tya : let t := after .tya { machine 0x8000 [] with a := 0x11 }; t.a = 0x00 ∧ t.p = 0x22 := by decide
theorem test_tsx : let t := after .tsx (machine 0x8000 []); t.x = 0xFD ∧ t.p = 0xA0 := by decide
theorem test_txs_no_flag : let t := after .txs { machine 0x8000 [] with p := 0x24 }; t.sp = 0x00 ∧ t.p = 0x24 := by decide
theorem test_clear_flags :
    (after .clc { machine 0x8000 [] with p := 0xFF }).p = 0xFE ∧ (after .cld { machine 0x8000 [] with p := 0x2C }).p = 0x24 ∧
    (after .cli { machine 0x8000 [] with p := 0x24 }).p = 0x20 ∧ (after .clv { machine 0x8000 [] with p := 0x64 }).p = 0x24 := by
  decide
theorem test_set_flags :
    (after .sec { machine 0x8000 [] with p := 0x21 }).p = 0x21 ∧ (after .sed { machine 0x8000 [] with p := 0x24 }).p = 0x2C ∧
    (after .sei (machine 0x8000 [])).p = 0x24 := by
  decide
theorem test_nop :
    let t := after (.nop 0x1C) { machine 0x8000 [] with x := 0xFF }
    t.x = 0xFF ∧ t.p = 0x20 ∧ t.pc = 0x8001 ∧ t.cyc = 4 := by decide
theorem test_xxx :
    let t := after (.xxx 0x03) { machine 0x8000 [] with a := 0x12, p := 0xE3 }
    t.a = 0x12 ∧ t.p = 0xE3 ∧ t.pc = 0x8001 ∧ t.cyc = 8 := by decide

/-! 2.10 Cartridge loading: bank bytes, mapper bytes and image length. -/

/-- The header with these bytes 4 to 7. -/
def header (b4 b5 b6 b7 : Byte) : Header := Header.ofImage [0x4E, 0x45, 0x53, 0x1A, b4, b5, b6, b7]

theorem test_load_accepts :
    (header 0x01 0x01 0x00 0x00).loadsValid 24592 = true ∧ (header 0x01 0x00 0x00 0x00).loadsValid 16400 = true ∧
    (header 0x01 0x01 0x04 0x00).loadsValid 25104 = true ∧ (header 0x01 0x01 0x0B 0x0F).loadsValid 24592 = true ∧
    (header 0x01 0x01 0x00 0x00).loadsValid 24692 = true ∧ (header 0x04 0x02 0x00 0x00).loadsValid 81936 = true := by decide
theorem test_load_refuses :
    (header 0x01 0x01 0x04 0x00).loadsValid 24592 = false ∧ (header 0x01 0x01 0x10 0x40).loadsValid 24592 = false ∧
    (header 0x01 0x01 0x00 0x10).loadsValid 24592 = false ∧ (header 0x01 0x01 0x00 0x00).loadsValid 24591 = false ∧
    (header 0x00 0x01 0x00 0x00).loadsValid 8208 = false := by decide
theorem test_mapper_id :
    (header 0x01 0x01 0x10 0x40).mapperId = 0x41 ∧ (header 0x01 0x01 0x04 0x00).prgStart = 528 ∧
    (header 0x01 0x01 0x04 0x00).chrStart = 16912 := by decide

/-! 2.11 Bus routing. -/

theorem test_ram_mirrors :
    let t := busWrite 0x1FFF 0x99 (machine 0x8000 [])
    t.ram = [(0x7FF, 0x99)] ∧ busValue 0x07FF t = 0x99 ∧ busValue 0x0FFF t = 0x99 := by decide
theorem test_window_write_is_recorded :
    let t := busWrite 0x2009 0x40 (machine 0x8000 [])
    t.periphLog = [.cpuWrite 1 0x40] ∧ t.ram = [] := by decide
theorem test_window_read_draws :
    (afterRead 0x3FFF (machine 0x8000 [])).draws = 1 ∧
    readResponder (testCart []) 0x3FF8 = .periph 0 ∧ readResponder (testCart []) 0x3FFF = .periph 7 := by decide
theorem test_open_bus_and_prg :
    let s := machine 0x8000 []
    busValue 0x4000 s = 0x00 ∧ busValue 0x7FFF s = 0x00 ∧ busValue 0xFFFB s = 0x81 ∧ busValue 0xBFFB s = 0x81 ∧
    busWrite 0x6000 0x55 s = s ∧ busWrite 0x8000 0x55 s = s := by decide
theorem test_chr_ram :
    let ram := { testCart [] with header := { (testCart []).header with chrChunks := 0x00 } }
    (testCart []).claimsWritePpu 0x0010 = false ∧ (testCart []).readPpu 0x2000 = none ∧
    ram.claimsWritePpu 0x0010 = true ∧ (ram.writePpu 0x0010 0x77).readPpu 0x0010 = some 0x77 := by decide

/-! 2.12 Interrupt entries and reset. -/

/-- The state before each event. -/
def beforeEvent (p : Byte) : State := { machine 0x8034 [] with a := 0x11, x := 0x22, y := 0x33, p }

theorem test_irq_masked : irq (beforeEvent 0x24) = beforeEvent 0x24 := by decide
theorem test_irq_taken :
    let t := irq { beforeEvent 0xF3 with sp := 0x01, pc := 0x12FF, cyc := 2 }
    t.ram = [(0x100, 0xFF), (0x101, 0x12), (0x1FF, 0xE3)] ∧ t.sp = 0xFE ∧ t.p = 0xE7 ∧ t.pc = 0x9000 ∧ t.cyc = 7 := by decide
theorem test_nmi :
    let t := nmi { beforeEvent 0x20 with cyc := 5 }
    t.ram = [(0x1FB, 0x20), (0x1FC, 0x34), (0x1FD, 0x80)] ∧ t.sp = 0xFA ∧ t.p = 0x24 ∧ t.pc = 0x8120 ∧ t.cyc = 8 := by decide
theorem test_cpu_reset :
    let t := cpuReset { beforeEvent 0xFF with sp := 0x12, cyc := 4, sysclk := 7 }
    t.a = 0x00 ∧ t.sp = 0xFD ∧ t.p = 0x20 ∧ t.pc = 0x8000 ∧ t.cyc = 8 ∧ t.sysclk = 7 := by decide

/-! 2.13 The step: the host's calls, the divider, the first instruction. -/

/-- The state a step leaves. -/
def stepped (s : State) : State :=
  match step s with
  | .next t => t
  | _ => s

theorem test_step_executes_at_a_boundary :
    let t := stepped { machine 0x8000 [] with cart := testCart [0xA9, 0x80] }
    t.a = 0x80 ∧ t.p = 0xA0 ∧ t.pc = 0x8002 ∧ t.cyc = 1 ∧ t.sysclk = 1 := by decide
theorem test_step_counts_down :
    let t := stepped { machine 0x8000 [] with cyc := 8, sysclk := 3 }
    t.cyc = 7 ∧ t.sysclk = 4 ∧ t.pc = 0x8000 := by decide
theorem test_step_divides :
    let t := stepped { machine 0x8000 [] with sysclk := 1 }
    t.cyc = 0 ∧ t.sysclk = 2 ∧ t.pc = 0x8000 := by decide
theorem test_step_takes_the_host_call :
    let t := stepped { machine 0x8034 [] with host := [.nmi, .irq] }
    t.pc = 0x8120 ∧ t.host = [.irq] ∧ t.sysclk = 0 := by decide
theorem test_fetch_word_runs :
    let t := stepped (State.reset.withFetchWord 16 0x42A9)
    t.a = 0x42 ∧ t.pc = 0x0002 := by decide
theorem test_fetch_word_runs_where_pc_has_no_storage :
    let t := stepped (State.withFetchWord { machine 0x5000 [] with host := [.irq] } 24 0x12344C)
    t.pc = 0x1234 := by decide
theorem test_is_complete : (machine 0x8000 []).isComplete = true ∧ State.reset.isComplete = false := by decide
/-- E9: the keys of program P1. -/
theorem test_disassemble_keys :
    (disassemble 0x8000 0x8011 { machine 0x8000 [] with
      cart := testCart [0xA9, 0x00, 0xA2, 0x05, 0x86, 0x11, 0x18, 0x65, 0x11, 0xC6, 0x11, 0xD0, 0xF9, 0x85, 0x10, 0x4C, 0x0F, 0x80] }).1 =
      [0x8000, 0x8002, 0x8004, 0x8006, 0x8007, 0x8009, 0x800B, 0x800D, 0x800F] := by decide

/-! Reset, and memory in canonical form. -/

theorem test_reset_state :
    State.reset.sp = 0xFD ∧ State.reset.p = 0x20 ∧ State.reset.cyc = 8 ∧ State.reset.sysclk = 0 ∧
    busReset State.reset = State.reset := by decide
theorem test_memory_write_removes :
    Memory.write [(0x10, 0x01)] 0x10 0x00 = [] ∧ Memory.wf (Memory.write [(0x10, 0x01)] 0x08 0x02) = true ∧
    Memory.wf [(0x10, 0x00)] = false := by decide

/-! Witnesses: what the hypotheses of each statement ask for is met. The number is that of OBLIGATIONS.json. -/

/-- O1, and every statement whose one hypothesis is that an instruction is well-formed: O30 to O38, O46, O47, O50, O51. -/
theorem witness_well_formed :
    (∀ v, (Instr.adc (.imm v)).wf = true) ∧ (∀ a, (Instr.sbc (.aby a)).wf = true) ∧ (∀ v, (Instr.and (.zp0 v)).wf = true) ∧
    (∀ v, (Instr.ora (.izx v)).wf = true) ∧ (∀ v, (Instr.eor (.izy v)).wf = true) ∧ (∀ a, (Instr.bit (.abs a)).wf = true) ∧
    (∀ v, (Instr.cmp (.zpx v)).wf = true) ∧ (∀ v, (Instr.cpx (.imm v)).wf = true) ∧ (∀ v, (Instr.cpy (.zp0 v)).wf = true) ∧
    (∀ a, (Instr.lda (.abx a)).wf = true) ∧ (∀ v, (Instr.ldx (.zpy v)).wf = true) ∧ (∀ v, (Instr.ldy (.zpx v)).wf = true) ∧
    (∀ a, (Instr.sta (.aby a)).wf = true) ∧ (∀ v, (Instr.stx (.zpy v)).wf = true) ∧ (∀ v, (Instr.sty (.zpx v)).wf = true) :=
  ⟨fun _ => rfl, fun _ => rfl, fun _ => rfl, fun _ => rfl, fun _ => rfl, fun _ => rfl, fun _ => rfl, fun _ => rfl,
   fun _ => rfl, fun _ => rfl, fun _ => rfl, fun _ => rfl, fun _ => rfl, fun _ => rfl, fun _ => rfl⟩
theorem witness_well_formed_modify :
    (∀ a, (Instr.asl (.abx a)).wf = true ∧ Operand.abx a ≠ .acc) ∧ (∀ a, (Instr.lsr (.abs a)).wf = true ∧ Operand.abs a ≠ .acc) ∧
    (∀ v, (Instr.rol (.zp0 v)).wf = true ∧ Operand.zp0 v ≠ .acc) ∧ (∀ v, (Instr.ror (.zpx v)).wf = true ∧ Operand.zpx v ≠ .acc) ∧
    (∀ a, (Instr.inc (.abx a)).wf = true) ∧ (∀ a, (Instr.dec (.abs a)).wf = true) ∧
    (Instr.nop 0xEA).wf = true ∧ (Instr.nop 0x04).wf = true ∧ (Instr.xxx 0x02).wf = true ∧ (Instr.xxx 0xFF).wf = true :=
  ⟨fun _ => ⟨rfl, nofun⟩, fun _ => ⟨rfl, nofun⟩, fun _ => ⟨rfl, nofun⟩, fun _ => ⟨rfl, nofun⟩, fun _ => rfl, fun _ => rfl,
   rfl, rfl, rfl, rfl⟩
theorem witness_O2 : decode [0xAD, 0xFF, 0xFF, 0x12] = .ok (.lda (.abs 0xFFFF), [0x12]) := rfl
/-- O3, at the wrap of PC. -/
theorem witness_O3 :
    inWindow 0xFFFF = false ∧ inWindow (0xFFFF + 1) = false ∧ inWindow (0xFFFF + 2) = false ∧
    inWindow 0x1FFF = false ∧ inWindow 0x2000 = true ∧ inWindow 0x3FFF = true ∧ inWindow 0x4000 = false := by decide

/-- A machine whose next step executes LDA #$80. -/
def loading : State := { machine 0x8000 [] with cart := testCart [0xA9, 0x80] }

theorem witness_O5 :
    nextCall loading = .clock ∧ loading.sysclk % 3 = 0 ∧ loading.cyc = 0 ∧ (Instr.lda (.imm 0x80)).wf = true ∧
    (fetchBytes (periphClock { loading with host := loading.host.tail })).1 = encode (.lda (.imm 0x80)) := by
  refine ⟨rfl, rfl, rfl, rfl, by decide⟩
/-- O6: each side of the disjunction, at its boundary. -/
theorem witness_O6 :
    (nextCall { loading with sysclk := 1 } = .clock ∧ ({ loading with sysclk := 1 } : State).sysclk % 3 ≠ 0) ∧
    (nextCall { loading with cyc := 1 } = .clock ∧ ({ loading with cyc := 1 } : State).cyc ≠ 0) := by decide
theorem witness_O8 :
    loading.host = [] ∧ loading.sysclk % 3 = 0 ∧ loading.cyc = 0 ∧ (Instr.lda (.imm 0x80)).wf = true ∧
    (fetchBytes (periphClock loading)).1 = encode (.lda (.imm 0x80)) ∧
    ∃ u, exec (.lda (.imm 0x80)) (fetchBytes (periphClock loading)).2 = .next u ∧ u.cyc = 2 := by
  refine ⟨rfl, rfl, rfl, rfl, by decide, _, rfl, by decide⟩
theorem witness_O10 : loading.Inv ∧ ∃ t, step loading = .next t := by
  refine ⟨⟨by decide, by decide, by decide, by decide, by decide, by decide, by decide, by decide, by decide, by decide⟩, _, rfl⟩

/-- An image with one PRG bank and no CHR bank, and these bytes after the header. -/
def imageOf (tail : List Byte) : List Byte :=
  0x4E :: 0x45 :: 0x53 :: 0x1A :: 0x01 :: 0x00 :: 0x00 :: 0x00 :: 0x00 :: 0x00 :: 0x00 :: 0x00 :: 0x00 :: 0x00 :: 0x00 :: 0x00 :: tail

/-- It is long enough with 16 384 bytes after the header. -/
def image : List Byte := imageOf (List.replicate 16384 0x00)

theorem imageOf_valid {tail : List Byte} (h : tail.length = 16384) : (Cartridge.load (imageOf tail) []).valid = true := by
  have e : Header.ofImage (imageOf tail) = header 0x01 0x00 0x00 0x00 := rfl
  have l : (imageOf tail).length = 16400 := by simp only [imageOf, List.length_cons, h]
  simp only [Cartridge.load, e, l]
  decide
theorem image_valid : (Cartridge.load image []).valid = true := imageOf_valid List.length_replicate
/-- O11 and the last clause of O19. -/
theorem witness_O11 :
    (Cartridge.load image []).valid = true ∧ Memory.wf [(0x7FF, 0x01)] = true ∧ Memory.within [(0x7FF, 0x01)] 2048 = true ∧
    Memory.wf [(0x1FFF, 0x01)] = true ∧ Memory.within [(0x1FFF, 0x01)] 8192 = true :=
  ⟨image_valid, by decide, by decide, by decide, by decide⟩
theorem witness_O13 : 2047 < 2048 ∧ 3 < 4 ∧ 0 < 4 ∧ (machine 0x8000 [(0x7FF, 0x01)]).ram.wf = true := by decide
/-- O14, O15: an address of each clause, at its boundaries. -/
theorem witness_O14_O15 :
    let c := testCart []
    c.claimReadCpu 0x1FFF = none ∧ c.claimReadCpu 0x2000 = none ∧ c.claimReadCpu 0x3FFF = none ∧
    c.claimReadCpu 0x4000 = none ∧ c.claimReadCpu 0x7FFF = none ∧ c.claimReadCpu 0x8000 = some 0 ∧
    c.claimWriteCpu 0x1FFF = none ∧ c.claimWriteCpu 0x2000 = none ∧ c.claimWriteCpu 0x3FFF = none ∧
    c.claimWriteCpu 0x4000 = none ∧ c.claimWriteCpu 0xFFFF = some 0x3FFF := by decide
/-- O16, O17: a cartridge of each kind, and addresses at the boundaries. -/
theorem witness_O16_O17 :
    let c := testCart []
    let two := { c with header := { c.header with prgChunks := 0x02, chrChunks := 0x00 } }
    c.valid = true ∧ c.mapperId = 0x00 ∧ c.header.prgChunks.toNat ≤ 1 ∧ c.header.chrChunks ≠ 0x00 ∧
    two.valid = true ∧ two.mapperId = 0x00 ∧ two.header.prgChunks.toNat > 1 ∧ two.claimsWritePpu 0x1FFF = true ∧
    c.claimsWritePpu 0x1FFF = false ∧ two.claimsWritePpu 0x2000 = false ∧ two.chr.wf = true ∧
    0x7FFF#16 < 0x8000#16 ∧ 0x8000#16 ≤ 0x8000#16 ∧ 0x1FFF#16 ≤ 0x1FFF#16 ∧ 0x1FFF#16 < 0x2000#16 := by decide
theorem witness_O18_O20 :
    ({ testCart [] with valid := false } : Cartridge).valid = false ∧ (testCart []).header.chrChunks ≠ 0x00 ∧
    0x4000#16 ≤ 0x4000#16 := by decide
/-- O21, through a mirror. -/
theorem witness_O21 :
    (machine 0x1801 []).ram.wf = true ∧ 0x0001#16 ≤ 0x1FFF#16 ∧ sameRamByte 0x0001 (machine 0x1801 []).pc := by
  refine ⟨by decide, by decide, by decide, by decide, by decide⟩

/-- A machine with one host call to make, and this status. -/
def called (call : HostCall) (p : Byte) : State := { machine 0x8034 [] with host := [call], p }

theorem witness_O22 : (called .irq 0x24).host = [.irq] ∧ getFlag (called .irq 0x24).p .i = true := by decide
theorem witness_O23_O24_O25 :
    (called .irq 0x20).host = [.irq] ∧ getFlag (called .irq 0x20).p .i = false ∧ (called .irq 0x20).ram.wf = true ∧
    (called .nmi 0x24).host = [.nmi] ∧ (called .cpuReset 0x24).host = [.cpuReset] ∧
    (called .busReset 0x24).host = [.busReset] := by decide
/-- What a handler or subroutine leaves that changes A, pushes 0x11 and pulls it: SP as before, the byte below the frame changed. -/
def handled (s : State) : State := { push 0x11 { s with a := 0x55 } with sp := s.sp }

/-- O28: what such a handler leaves of each entry. -/
theorem witness_O28 :
    let s := machine 0x8034 []
    let byIrq := interruptEntry irqVector 7 s
    let byBrk := after .brk s
    s.ram.wf = true ∧
    ((handled byIrq).sp = byIrq.sp ∧ StackedBytesKept 3 byIrq (handled byIrq) ∧ stackByte (handled byIrq) 0xFA = 0x11) ∧
    ((handled (nmi s)).sp = (nmi s).sp ∧ StackedBytesKept 3 (nmi s) (handled (nmi s))) ∧
    (exec .brk s = .next byBrk ∧ (handled byBrk).sp = byBrk.sp ∧ StackedBytesKept 3 byBrk (handled byBrk)) := by
  refine ⟨by decide, ⟨rfl, ?_, by decide⟩, ⟨rfl, ?_⟩, rfl, rfl, ?_⟩ <;> (intro k h1 h2; interval_cases k <;> decide)
/-- O29. -/
theorem witness_O29 : (machine 0x8000 []).ram.wf = true ∧ getFlag (machine 0x8000 []).p .i = false := by decide
/-- O43: JMP through a pointer outside the window, at a page end. -/
theorem witness_indirect_pointer_outside_the_window :
    inWindow 0x02FF = false ∧ (0x02FF : Addr).toNat % 256 = 255 ∧ inWindow (0x02FF - 255) = false ∧
    inWindow 0x1FFF = false ∧ inWindow (0x1FFF - 255) = false ∧ inWindow 0x3FFF = true := by decide
/-- O45: what a subroutine that uses the stack leaves. -/
theorem witness_rts_after_jsr :
    let s := machine 0x8003 []
    let t := after (.jsr 0x9000) s
    s.ram.wf = true ∧ exec (.jsr 0x9000) s = .next t ∧ (handled t).sp = t.sp ∧ StackedBytesKept 2 t (handled t) ∧
    stackByte (handled t) 0xFB = 0x11 := by
  refine ⟨by decide, rfl, rfl, ?_, by decide⟩
  intro k h1 h2; interval_cases k <;> decide
/-- O54: the immediate operand's instruction has two bytes. -/
theorem witness_immediate_length : (Instr.lda (.imm 0xFF)).length = 2 ∧ (Instr.cpx (.imm 0x00)).length = 2 := by decide
/-- O56 to O58: instructions outside every list, that answer a next state. -/
theorem witness_whole_machine_rules :
    (∃ t, exec .clv (machine 0x8000 []) = .next t) ∧ Op.clv ∉ [Op.adc, .sbc, .and, .ora, .eor, .lda, .pla, .txa, .tya] ∧
    Instr.clv.mode ≠ .acc ∧ Op.clv ∉ [Op.pha, .php, .pla, .plp, .jsr, .rts, .rti, .brk, .txs] ∧
    Op.clv ∉ [Op.sta, .stx, .sty, .asl, .lsr, .rol, .ror, .inc, .dec, .pha, .php, .jsr, .brk] ∧
    (Instr.asl .acc).mode = .acc ∧ getFlag (machine 0x8000 []).p .u = true := by
  refine ⟨⟨_, rfl⟩, by decide, by decide, by decide, by decide, by decide, by decide⟩
/-- O59: a form of each group, in the window and outside it. -/
theorem witness_window_accesses :
    let s := machine 0x8000 []
    (∃ t, exec (.lda (.abs 0x2000)) s = .next t) ∧ (∃ t, exec (.inc (.abs 0x3FFF)) s = .next t) ∧
    (∃ t, exec (.sta (.abs 0x1FFF)) s = .next t) ∧
    inWindow (operandAddr (.lda (.abs 0x2000)) (.abs 0x2000) s) = true ∧
    inWindow (operandAddr (.inc (.abs 0x3FFF)) (.abs 0x3FFF) s) = true ∧
    inWindow (operandAddr (.sta (.abs 0x1FFF)) (.abs 0x1FFF) s) = false := by
  refine ⟨⟨_, rfl⟩, ⟨_, rfl⟩, ⟨_, rfl⟩, by decide, by decide, by decide⟩
/-- O60: a range with no key in the window. -/
theorem witness_disassemble :
    (disassemble 0xFFFE 0xFFFF (machine 0x8000 [])).1 = [0xFFFE, 0xFFFF] ∧
    (∀ k ∈ (disassemble 0xFFFE 0xFFFF (machine 0x8000 [])).1, inWindow (BitVec.ofNat 16 k) = false) ∧
    (disassemble 0x0001 0x0000 (machine 0x8000 [])).1 = [] := by decide

end Sys2Proof.Tests
end

section
/-! PROOFS. What an execution leaves: its total, the memories it keeps, the registers and flags it writes. -/

namespace Sys2Proof.Machine

/-! What an instruction of each shape answers, and that its total is at most 9: one more than CYC can be once the tick that
executes it has counted (R33, R150). -/

/-- A reading instruction answers its operation on the state with the operand in M. -/
theorem runRead_inv {i : Instr} {o : Operand} {xb : Bool} {op : State → State} {s t : State}
    (h : runRead i o xb op s = .next t) : ∃ n ≤ 9, t = loadCyc n (op (fetched i o s)) :=
  ⟨_, Nat.add_le_add (base_bounds i).2 (bonus_le _ xb), (runInstr_inv h).2⟩

/-- A store answers one bus write. -/
theorem runStore_inv {i : Instr} {o : Operand} {v : State → Byte} {s t : State} (h : runStore i o v s = .next t) :
    ∃ n ≤ 9, t = loadCyc n (busWrite (operandAddr i o s) (v (resolve o (entered i s))) (resolve o (entered i s))) :=
  ⟨_, Nat.add_le_add (base_bounds i).2 (bonus_le _ false), (runInstr_inv h).2⟩

/-- A read-modify-write instruction answers the written-back result, with the new status. -/
theorem runModify_inv {i : Instr} {o : Operand} {f g : Byte → Byte → Byte} {s t : State}
    (h : runModify i o f g s = .next t) :
    ∃ n ≤ 9, t = loadCyc n (writeBack o (f s.p (operandByte i o s))
      { fetched i o s with p := g s.p (operandByte i o s) }) := by
  refine ⟨_, Nat.add_le_add (base_bounds i).2 (bonus_le (resolverBonus o (entered i s)) false), ?_⟩
  rw [runModify_next (runInstr_inv h).1] at h
  exact (Host.Outcome.next.inj h).symm

/-- An instruction that adds nothing to its base count answers its body. -/
theorem runPlain_inv {i : Instr} {body : State → State} {s t : State} (h : runInstr i (fun _ => 0) body s = .next t) :
    ∃ n ≤ 9, t = loadCyc n (body (entered i s)) :=
  ⟨_, Nat.le_succ_of_le (base_bounds i).2, (runInstr_inv h).2⟩

/-- An instruction with the Implied mode answers its operation on the state with A in M. -/
theorem runImplied_inv {i : Instr} {op : State → State} {s t : State} (h : runImplied i op s = .next t) :
    ∃ n ≤ 9, t = loadCyc n (op { entered i s with m := s.a }) := runPlain_inv h

/-- Every branch has the base count 2 (R125). -/
theorem descriptor_base_of_rel (b : Byte) : (descriptor b).mode = .rel → (descriptor b).base = 2 :=
  forall_byte (P := fun b => (descriptor b).mode = .rel → (descriptor b).base = 2) (by decide +kernel) b

theorem branchPenalty_le (taken : Bool) (rel8 : Byte) (s : State) : branchPenalty taken rel8 s ≤ 2 := by
  unfold branchPenalty
  split
  · split <;> decide
  · decide

/-- A branch writes REL, EA and PC (R240). -/
theorem runBranch_inv {i : Instr} {rel8 : Byte} {cond : Byte → Bool} {s t : State}
    (h : runBranch i rel8 cond s = .next t) (hm : i.mode = .rel) :
    ∃ n ≤ 9, ∃ ea pc, t = loadCyc n { entered i s with rel := sext16 rel8, ea := ea, pc := pc } := by
  obtain ⟨hw, ht⟩ := runInstr_inv h
  refine ⟨_, ?_, _, _, ht⟩
  obtain ⟨b, hb⟩ := exists_opcode_of_wf hw
  have hbase := descriptor_base_of_rel b ((descriptor_of_opcode hb).2.trans hm)
  have hpenalty := branchPenalty_le (cond (entered i s).p) rel8 (entered i s)
  simp only [hb, Option.getD_some]
  omega

/-! The total and the memories. -/

/-- RAM in canonical form and inside its 2 048 bytes (R36). -/
def RamOk (mem : Memory) : Prop := mem.wf = true ∧ mem.within 2048 = true

theorem busWrite_ramOk {addr : Addr} {v : Byte} {s : State} (h : RamOk s.ram) : RamOk (busWrite addr v s).ram :=
  ⟨busWrite_ram_wf h.1, busWrite_ram_within h.2⟩

theorem push_ramOk {v : Byte} {s : State} (h : RamOk s.ram) : RamOk (push v s).ram := push_ram_ok h

theorem takeException_ramOk {ret : Addr} {pushed live : Byte} {vector : Addr} {s : State} (h : RamOk s.ram) :
    RamOk (takeException ret pushed live vector s).ram := push_ramOk (push_ramOk (push_ramOk h))

theorem writeBack_ramOk {o : Operand} {v : Byte} {s : State} (h : RamOk s.ram) : RamOk (writeBack o v s).ram := by
  cases o
  case acc => exact h
  all_goals exact busWrite_ramOk h

/-- Every instruction leaves CYC at most 9 and the cartridge alone, and keeps RAM's form (R36, R91). -/
theorem exec_keeps {i : Instr} {s t : State} (h : exec i s = .next t) (hr : RamOk s.ram) :
    t.cyc ≤ 9 ∧ t.cart = s.cart ∧ RamOk t.ram := by
  cases i <;> simp only [exec] at h
  case adc | sbc | and | ora | eor | bit | cmp | cpx | cpy | lda | ldx | ldy =>
    obtain ⟨n, hn, rfl⟩ := runRead_inv h
    exact ⟨hn, by simp, by simpa using hr⟩
  case sta | stx | sty =>
    obtain ⟨n, hn, rfl⟩ := runStore_inv h
    exact ⟨hn, by simp, by simp [busWrite_ramOk, hr]⟩
  case asl | lsr | rol | ror | inc | dec =>
    obtain ⟨n, hn, rfl⟩ := runModify_inv h
    exact ⟨hn, by simp, by simp [writeBack_ramOk, hr]⟩
  case bcc | bcs | beq | bne | bmi | bpl | bvc | bvs =>
    obtain ⟨n, hn, _, _, rfl⟩ := runBranch_inv h rfl
    exact ⟨hn, by simp, by simpa using hr⟩
  case jmp | nop =>
    obtain ⟨n, hn, rfl⟩ := runPlain_inv h
    exact ⟨hn, by simp, by simpa using hr⟩
  case jsr =>
    obtain ⟨n, hn, rfl⟩ := runPlain_inv h
    refine ⟨hn, by simp, ?_⟩
    simp only [loadCyc_ram]
    exact push_ramOk (push_ramOk (by simpa using hr))
  case pha | php =>
    obtain ⟨n, hn, rfl⟩ := runImplied_inv h
    exact ⟨hn, by simp, by simp [busWrite_ramOk, hr]⟩
  case brk =>
    obtain ⟨n, hn, rfl⟩ := runImplied_inv h
    refine ⟨hn, by simp [softwareInterrupt], ?_⟩
    simp only [loadCyc_ram, softwareInterrupt]
    exact takeException_ramOk (by simpa using hr)
  case rti =>
    obtain ⟨n, hn, rfl⟩ := runImplied_inv h
    exact ⟨hn, by simp [returnFromInterrupt], by simpa [returnFromInterrupt] using hr⟩
  all_goals
    obtain ⟨n, hn, rfl⟩ := runImplied_inv h
    exact ⟨hn, by simp, by simpa using hr⟩

/-! The flags. -/

/-- The flags an instruction of this mnemonic can write (R26). -/
def flagsWritten : Op → List Flag
  | .adc | .sbc => [.c, .z, .v, .n]
  | .asl | .lsr | .rol | .ror | .cmp | .cpx | .cpy => [.c, .z, .n]
  | .bit => [.z, .v, .n]
  | .and | .ora | .eor | .inc | .dec | .inx | .iny | .dex | .dey | .lda | .ldx | .ldy | .tax | .tay | .txa | .tya | .tsx
  | .pla => [.z, .n]
  | .clc | .sec => [.c]
  | .cli | .sei => [.i]
  | .cld | .sed => [.d]
  | .clv => [.v]
  | .brk => [.i, .b]
  | .plp | .rti => [.c, .z, .i, .d, .b, .u, .v, .n]
  | _ => []

@[simp] theorem flagsKept_refl (p : Byte) (written : List Flag) : FlagsKept p p written := fun _ _ => rfl

theorem flagsKept_all (p q : Byte) : FlagsKept p q [.c, .z, .i, .d, .b, .u, .v, .n] := by
  intro f hf
  cases f <;> simp at hf

theorem flagsKept_setZN (p v : Byte) : FlagsKept p (setZN p v) [.z, .n] := (zeroNegativeFrom_setZN p v).2.2

theorem flagsKept_shiftFlags (p r : Byte) (out : Bool) : FlagsKept p (shiftFlags p r out) [.c, .z, .n] :=
  (carryZeroNegativeFrom_shiftFlags p r out).2.2.2

theorem flagsKept_addFlags (p a m : Byte) : FlagsKept p (addFlags p a m) [.c, .z, .v, .n] := by
  intro f hf
  cases f <;> simp_all [getFlag_addFlags]

theorem flagsKept_compareFlags (p reg m : Byte) : FlagsKept p (compareFlags p reg m) [.c, .z, .n] := by
  intro f hf
  simp only [List.mem_cons, List.not_mem_nil, or_false, not_or] at hf
  simp [compareFlags, getFlag_putFlag, hf]

theorem flagsKept_bitFlags (p a m : Byte) : FlagsKept p (bitFlags p a m) [.z, .v, .n] := by
  intro f hf
  simp only [List.mem_cons, List.not_mem_nil, or_false, not_or] at hf
  simp [bitFlags, getFlag_putFlag, hf]

theorem flagsKept_putFlag (p : Byte) (f : Flag) (v : Bool) : FlagsKept p (putFlag p f v) [f] :=
  (oneFlagWritten_putFlag f v p).2

/-- BRK leaves B and I (R260). -/
theorem flagsKept_breakStatus (p : Byte) : FlagsKept p (putFlag (putFlag p .b false) .i true) [.i, .b] := by
  intro f hf
  simp only [List.mem_cons, List.not_mem_nil, or_false, not_or] at hf
  simp [getFlag_putFlag, hf]

/-- An instruction writes no flag but those of its mnemonic. -/
theorem exec_flagsKept {i : Instr} {s t : State} (h : exec i s = .next t) : FlagsKept s.p t.p (flagsWritten i.op) := by
  cases i <;> simp only [exec] at h <;> simp only [Instr.op, flagsWritten]
  case adc | sbc =>
    obtain ⟨n, -, rfl⟩ := runRead_inv h
    simpa using flagsKept_addFlags _ _ _
  case and | ora | eor | lda | ldx | ldy =>
    obtain ⟨n, -, rfl⟩ := runRead_inv h
    simpa using flagsKept_setZN _ _
  case cmp | cpx | cpy =>
    obtain ⟨n, -, rfl⟩ := runRead_inv h
    simpa using flagsKept_compareFlags _ _ _
  case bit =>
    obtain ⟨n, -, rfl⟩ := runRead_inv h
    simpa using flagsKept_bitFlags _ _ _
  case asl | lsr | rol | ror =>
    obtain ⟨n, -, rfl⟩ := runModify_inv h
    simpa using flagsKept_shiftFlags _ _ _
  case inc | dec =>
    obtain ⟨n, -, rfl⟩ := runModify_inv h
    simpa using flagsKept_setZN _ _
  case inx | iny | dex | dey | tax | tay | txa | tya | tsx | pla =>
    obtain ⟨n, -, rfl⟩ := runImplied_inv h
    simpa using flagsKept_setZN _ _
  case clc | sec | cli | sei | cld | sed | clv =>
    obtain ⟨n, -, rfl⟩ := runImplied_inv h
    simpa using flagsKept_putFlag _ _ _
  case brk =>
    obtain ⟨n, -, rfl⟩ := runImplied_inv h
    simpa [softwareInterrupt] using flagsKept_breakStatus _
  case plp | rti => exact flagsKept_all _ _
  case sta | stx | sty =>
    obtain ⟨n, -, rfl⟩ := runStore_inv h
    simp
  case bcc | bcs | beq | bne | bmi | bpl | bvc | bvs =>
    obtain ⟨n, -, _, _, rfl⟩ := runBranch_inv h rfl
    simp
  case jmp | jsr | nop =>
    obtain ⟨n, -, rfl⟩ := runPlain_inv h
    simp
  all_goals
    obtain ⟨n, -, rfl⟩ := runImplied_inv h
    simp

/-- No instruction clears the Unused flag: PLP and RTI, which alone write it, set it (R27). -/
theorem exec_unusedSet {i : Instr} {s t : State} (h : exec i s = .next t) (hu : getFlag s.p .u = true) :
    getFlag t.p .u = true := by
  have hkept : .u ∉ flagsWritten i.op → getFlag t.p .u = true := fun hw => (exec_flagsKept h .u hw).trans hu
  cases i
  case plp =>
    simp only [exec] at h
    obtain ⟨n, -, rfl⟩ := runImplied_inv h
    simp [getFlag, Flag.index]
  case rti =>
    simp only [exec] at h
    obtain ⟨n, -, rfl⟩ := runImplied_inv h
    exact getFlag_putFlag_same _ _ _
  all_goals exact hkept (by simp [Instr.op, flagsWritten])

/-! The registers. -/

/-- A result is written back to A only in accumulator form (R214). -/
theorem writeBack_a {o : Operand} (h : o.mode ≠ .acc) (v : Byte) (s : State) : (writeBack o v s).a = s.a := by
  cases o
  case acc => exact absurd rfl h
  all_goals rfl

end Sys2Proof.Machine
end

section
/-! PROOFS. Every call of the host keeps the machine's invariant. -/

namespace Sys2Proof.Machine

/-! What keeps the invariant. -/

theorem State.Inv.ramOk {s : State} (h : s.Inv) : RamOk s.ram := ⟨h.ramCanonical, h.ramWithin⟩

/-- The invariant speaks of P, CYC, RAM and the cartridge only. -/
theorem State.Inv.of_eq {s t : State} (h : s.Inv) (hp : t.p = s.p) (hcyc : t.cyc = s.cyc) (hram : t.ram = s.ram)
    (hcart : t.cart = s.cart) : t.Inv where
  unusedSet := hp ▸ h.unusedSet
  cycBounded := hcyc ▸ h.cycBounded
  ramCanonical := hram ▸ h.ramCanonical
  ramWithin := hram ▸ h.ramWithin
  cartridge := hcart ▸ h.cartridge

theorem afterRead_inv (addr : Addr) {s : State} (h : s.Inv) : (afterRead addr s).Inv :=
  h.of_eq rfl rfl rfl rfl

theorem busWrite_inv (addr : Addr) (v : Byte) {s : State} (h : s.Inv) : (busWrite addr v s).Inv where
  unusedSet := h.unusedSet
  cycBounded := h.cycBounded
  ramCanonical := busWrite_ram_wf h.ramCanonical
  ramWithin := busWrite_ram_within h.ramWithin
  cartridge := h.cartridge

theorem loadCyc_inv {n : Nat} (hn : n ≤ 8) {s : State} (h : s.Inv) : (loadCyc n s).Inv where
  unusedSet := h.unusedSet
  cycBounded := hn
  ramCanonical := h.ramCanonical
  ramWithin := h.ramWithin
  cartridge := h.cartridge

theorem countDown_inv {s : State} (h : s.Inv) : (countDown s).Inv :=
  loadCyc_inv (Nat.le_trans (Nat.sub_le _ _) h.cycBounded) h

theorem countTick_inv {s : State} (h : s.Inv) : (countTick s).Inv := h.of_eq rfl rfl rfl rfl

/-- The peripheral's clock changes CHR contents at most, and those inside their size (R345). -/
theorem periphClock_inv {s : State} (h : s.Inv) : (periphClock s).Inv where
  unusedSet := h.unusedSet
  cycBounded := h.cycBounded
  ramCanonical := h.ramCanonical
  ramWithin := h.ramWithin
  cartridge :=
    have hchr := runAccesses_chr_ok _ _ ⟨h.cartridge.chrCanonical, h.cartridge.chrWithin⟩
    { mapperImplemented := h.cartridge.mapperImplemented
      hasPrgBank := h.cartridge.hasPrgBank
      prgCanonical := h.cartridge.prgCanonical
      prgWithin := h.cartridge.prgWithin
      chrCanonical := hchr.1
      chrWithin := hchr.2 }

/-! The interrupts and the resets. -/

/-- An exception entry keeps the invariant when the status it leaves has the Unused flag. -/
theorem takeException_inv (ret : Addr) (pushed : Byte) {live : Byte} (vector : Addr) (hlive : getFlag live .u = true)
    {s : State} (h : s.Inv) : (takeException ret pushed live vector s).Inv where
  unusedSet := by rw [takeException_p, getFlag_putFlag_other _ _ (by decide), hlive]
  cycBounded := by rw [takeException_cyc]; exact h.cycBounded
  ramCanonical := (takeException_ramOk h.ramOk).1
  ramWithin := (takeException_ramOk h.ramOk).2
  cartridge := by rw [takeException_cart]; exact h.cartridge

/-- An irq or nmi entry forces the Unused flag to 1 (R325). -/
theorem interruptEntry_inv (vector : Addr) {n : Nat} (hn : n ≤ 8) {s : State} (h : s.Inv) :
    (interruptEntry vector n s).Inv :=
  loadCyc_inv hn (takeException_inv _ _ _ (getFlag_putFlag_same _ _ _) h)

/-- A masked irq changes nothing, any other is an entry of 7 cycles (R326). -/
theorem irq_inv {s : State} (h : s.Inv) : (irq s).Inv := by
  unfold irq
  split
  · exact h
  · exact interruptEntry_inv irqVector (by decide) h

/-- The CPU's reset makes P and CYC what the invariant asks, whatever they were (R324). -/
theorem cpuReset_inv {s : State} (hram : RamOk s.ram) (hcart : s.cart.Inv) : (cpuReset s).Inv where
  unusedSet := by simp [cpuReset, getFlag, Flag.index]
  cycBounded := Nat.le_refl 8
  ramCanonical := hram.1
  ramWithin := hram.2
  cartridge := hcart

theorem busReset_inv {s : State} (hram : RamOk s.ram) (hcart : s.cart.Inv) : (busReset s).Inv :=
  (cpuReset_inv hram hcart).of_eq rfl rfl rfl rfl

/-! The scan of `disassemble`. -/

theorem disassembleFrom_inv (fuel addr stop : Nat) {s : State} (h : s.Inv) : (disassembleFrom fuel addr stop s).2.Inv := by
  induction fuel generalizing addr s with
  | zero => exact h
  | succ fuel ih =>
    unfold disassembleFrom
    split
    · exact ih _ (afterRead_inv _ h)
    · exact h

/-! The ticks. -/

/-- A change applied to the state a step goes on to was applied to some state. -/
theorem onNext_inv {f : State → State} {r : Result} {t : State} (h : onNext f r = .next t) :
    ∃ u, r = .next u ∧ t = f u := by
  cases r with
  | next u => exact ⟨u, rfl, (Host.Outcome.next.inj h).symm⟩
  | fault r => cases h
  | refused r => cases h

/-- What `executeNext` answers is what some instruction answers on the state after the fetch. -/
theorem executeNext_inv {s t : State} (h : executeNext s = .next t) : ∃ i, exec i (fetchBytes s).2 = .next t := by
  unfold executeNext at h
  split at h
  · next i _ _ => exact ⟨i, h⟩
  · cases h

theorem fetchBytes_inv {s : State} (h : s.Inv) : (fetchBytes s).2.Inv := by
  rw [fetchBytes_state]
  exact h.of_eq rfl rfl rfl rfl

/-- An instruction and the count of its first tick keep the invariant together: the total alone may be 9 (R33, R150). -/
theorem exec_countDown_inv {i : Instr} {s t : State} (hs : s.Inv) (h : exec i s = .next t) : (countDown t).Inv := by
  obtain ⟨hcyc, hcart, hram⟩ := exec_keeps h hs.ramOk
  have hunused := exec_unusedSet h hs.unusedSet
  exact
    { unusedSet := hunused
      cycBounded := by rw [countDown_cyc]; omega
      ramCanonical := hram.1
      ramWithin := hram.2
      cartridge := by rw [countDown_cart, hcart]; exact hs.cartridge }

theorem cpuClock_inv {s t : State} (hs : s.Inv) (h : cpuClock s = .next t) : t.Inv := by
  by_cases hc : s.cyc = 0
  · rw [cpuClock_boundary hc] at h
    obtain ⟨u, hu, rfl⟩ := onNext_inv h
    obtain ⟨i, hi⟩ := executeNext_inv hu
    exact exec_countDown_inv (fetchBytes_inv hs) hi
  · rw [cpuClock_idle hc] at h
    cases h
    exact countDown_inv hs

theorem systemTick_inv {s t : State} (hs : s.Inv) (h : systemTick s = .next t) : t.Inv := by
  by_cases hc : s.sysclk % 3 = 0
  · rw [systemTick_cpu hc] at h
    obtain ⟨u, hu, rfl⟩ := onNext_inv h
    exact countTick_inv (cpuClock_inv (periphClock_inv hs) hu)
  · rw [systemTick_idle hc] at h
    cases h
    exact countTick_inv (periphClock_inv hs)

/-- Every call of the host keeps the invariant (R335). -/
theorem hostCall_inv {call : HostCall} {s t : State} (hs : s.Inv) (h : hostCall call s = .next t) : t.Inv := by
  cases call
  case clock => exact systemTick_inv hs h
  all_goals cases h
  case busReset => exact busReset_inv hs.ramOk hs.cartridge
  case cpuReset => exact cpuReset_inv hs.ramOk hs.cartridge
  case irq => exact irq_inv hs
  case nmi => exact interruptEntry_inv nmiVector (by decide) hs
  case read addr => exact afterRead_inv addr hs
  case write addr v => exact busWrite_inv addr v hs
  case disassemble start stop => exact disassembleFrom_inv _ _ _ hs

end Sys2Proof.Machine
end

section
/-! PROOFS. The obligations of the state's family (10_state.md). -/

namespace Sys2Proof.Proofs

open Sys2Proof Sys2Proof.Machine

/-- Settles O9: each clause is a closed fact about the reset state's fields. -/
theorem resetMeetsTheInvariant : Obligations.ResetMeetsTheInvariant := by
  unfold Obligations.ResetMeetsTheInvariant
  exact
    { unusedSet := by decide
      cycBounded := by decide
      ramCanonical := reset_memories_canonical.1
      ramWithin := Memory.within_nil _
      cartridge :=
        { mapperImplemented := fun _ => rfl
          hasPrgBank := fun _ => by decide
          prgCanonical := reset_memories_canonical.2.1
          prgWithin := Memory.within_nil _
          chrCanonical := reset_memories_canonical.2.2
          chrWithin := Memory.within_nil _ } }

/-- Settles O10: a step is one host call, on the state with that call off its list, and every call keeps the invariant. -/
theorem everyStepKeepsTheInvariant : Obligations.EveryStepKeepsTheInvariant := by
  unfold Obligations.EveryStepKeepsTheInvariant
  intro s t hs h
  have hs' : State.Inv { s with host := s.host.tail } := hs.of_eq rfl rfl rfl rfl
  unfold step at h
  exact hostCall_inv hs' h

/-- Settles O56, by the shape of each instruction. -/
theorem whichInstructionsWriteRegisters : Obligations.WhichInstructionsWriteRegisters := by
  unfold Obligations.WhichInstructionsWriteRegisters
  intro i s t h
  cases i <;> simp only [exec] at h
  case adc | sbc | and | ora | eor | bit | cmp | cpx | cpy | lda | ldx | ldy =>
    obtain ⟨n, -, rfl⟩ := runRead_inv h
    simp [Instr.op]
  case sta | stx | sty =>
    obtain ⟨n, -, rfl⟩ := runStore_inv h
    simp
  case asl | lsr | rol | ror | inc | dec =>
    obtain ⟨n, -, rfl⟩ := runModify_inv h
    exact ⟨fun _ hm => by simp [writeBack_a hm], by simp, by simp, by simp⟩
  case bcc | bcs | beq | bne | bmi | bpl | bvc | bvs =>
    obtain ⟨n, -, _, _, rfl⟩ := runBranch_inv h rfl
    simp
  case jmp | jsr | nop =>
    obtain ⟨n, -, rfl⟩ := runPlain_inv h
    simp [Instr.op]
  all_goals
    obtain ⟨n, -, rfl⟩ := runImplied_inv h
    simp [Instr.op, softwareInterrupt, returnFromInterrupt]

/-- Settles O57: an instruction writes the flags `flagsWritten` has for its mnemonic, and a mnemonic outside a flag's list
does not have the flag there. -/
theorem whichInstructionsWriteFlags : Obligations.WhichInstructionsWriteFlags := by
  unfold Obligations.WhichInstructionsWriteFlags
  intro i s t h
  have hkept := exec_flagsKept h
  generalize i.op = op at hkept ⊢
  refine ⟨fun hc => hkept .c ?_, fun hzn => ⟨hkept .z ?_, hkept .n ?_⟩, fun hi => hkept .i ?_, fun hd => hkept .d ?_,
    fun hb => hkept .b ?_, fun hv => hkept .v ?_, exec_unusedSet h⟩
  all_goals cases op <;> simp_all [flagsWritten]

end Sys2Proof.Proofs
end

section
/-! PROOFS. Who answers a bus access, by what the cartridge claims, and what each answer leaves of the state. -/

namespace Sys2Proof.Machine

/-! The masks of the address decoding, as remainders. -/

/-- RAM is selected modulo 2 048 (R66). -/
theorem ramIndex_eq_mod (addr : Addr) : ramIndex addr = addr.toNat % 2048 := by
  unfold ramIndex
  rw [BitVec.toNat_and]
  exact Nat.and_two_pow_sub_one_eq_mod _ 11

/-- A peripheral register is selected modulo 8 (R67). -/
theorem periphReg_eq_ofNat_mod (addr : Addr) : periphReg addr = BitVec.ofNat 3 (addr.toNat % 8) := by
  apply BitVec.eq_of_toNat_eq
  simp [periphReg]

/-- The two PRG masks of NROM, as remainders (R87). -/
theorem toNat_and_prgMask (addr : Addr) :
    (addr &&& 0x7FFF#16).toNat = addr.toNat % 0x8000 ∧ (addr &&& 0x3FFF#16).toNat = addr.toNat % 0x4000 := by
  simp only [BitVec.toNat_and]
  exact ⟨Nat.and_two_pow_sub_one_eq_mod _ 15, Nat.and_two_pow_sub_one_eq_mod _ 14⟩

/-! The responder, from what the cartridge claims. -/

theorem readResponder_of_claimed {c : Cartridge} {addr : Addr} {off : Nat} (h : c.claimReadCpu addr = some off) :
    readResponder c addr = .cartridge off := by
  unfold readResponder
  rw [h]
  rfl

/-- From 0x4000 on nobody answers what the cartridge leaves unclaimed (R70). -/
theorem readResponder_of_unclaimed {c : Cartridge} {addr : Addr} (h : c.claimReadCpu addr = none) (ha : 0x4000#16 ≤ addr) :
    readResponder c addr = .openBus := by
  unfold readResponder
  rw [h, route, if_neg (by bv_omega), if_neg (by bv_omega)]

/-! What each responder makes of a read and of a write. -/

section

variable {addr : Addr} {s : State}

theorem busValue_of_cartridge {off : Nat} (h : readResponder s.cart addr = .cartridge off) :
    busValue addr s = s.cart.prg.read off := by
  unfold busValue
  rw [h]

theorem busValue_of_periph {reg : BitVec 3} (h : readResponder s.cart addr = .periph reg) :
    busValue addr s = Config.periphAnswer s.draws s.periphLog reg := by
  unfold busValue
  rw [h]

theorem busValue_of_openBus (h : readResponder s.cart addr = .openBus) : busValue addr s = 0x00 := by
  unfold busValue
  rw [h]
  rfl

/-- A read of a peripheral register draws a value and is recorded with it (log 6). -/
theorem afterRead_of_periph {reg : BitVec 3} (h : readResponder s.cart addr = .periph reg) :
    afterRead addr s =
      { s with draws := s.draws + 1, periphLog := .cpuRead reg (busValue addr s) :: s.periphLog } := by
  unfold afterRead
  rw [busValue_of_periph h, h]

theorem afterRead_of_not_inWindow (h : inWindow addr = false) : afterRead addr s = s :=
  afterRead_eq (not_periph_of_not_inWindow h)

theorem busWrite_of_ram (v : Byte) (s : State) (h : addr ≤ 0x1FFF#16) :
    busWrite addr v s = { s with ram := s.ram.write (addr.toNat % 2048) v } := by
  unfold busWrite
  rw [writeResponder_eq, readResponder_ram _ h, ramIndex_eq_mod]

theorem busWrite_of_periph {reg : BitVec 3} (v : Byte) (h : readResponder s.cart addr = .periph reg) :
    busWrite addr v s = { s with periphLog := .cpuWrite reg v :: s.periphLog } := by
  unfold busWrite
  rw [writeResponder_eq, h]

/-- A write that the cartridge claims is discarded (R85). -/
theorem busWrite_of_cartridge {off : Nat} (v : Byte) (h : readResponder s.cart addr = .cartridge off) :
    busWrite addr v s = s := by
  unfold busWrite
  rw [writeResponder_eq, h]

/-- A write to open bus is discarded (R70). -/
theorem busWrite_of_openBus (v : Byte) (h : readResponder s.cart addr = .openBus) : busWrite addr v s = s := by
  unfold busWrite
  rw [writeResponder_eq, h]

end

/-- A byte written in RAM is read back at every address of the same RAM byte (R66). -/
theorem busValue_busWrite_sameRamByte {a b : Addr} (v : Byte) {s : State} (hwf : s.ram.wf = true) (h : sameRamByte a b) :
    busValue b (busWrite a v s) = v := by
  obtain ⟨ha, hb, hindex⟩ := (sameRamByte_iff a b).1 h
  rw [busValue_ram _ hb, busWrite_ram_of _ _ ha, ← hindex, Memory.read_write hwf, if_pos rfl]

/-- And no byte outside the window changes but that one. -/
theorem memoryKeptBut_busWrite (addr : Addr) (v : Byte) (s : State) : MemoryKeptBut addr s (busWrite addr v s) :=
  memoryKeptBut_of (u := s) rfl rfl rfl

/-! The four appearances of a RAM byte (R66). -/

section

variable {k : Nat} (hk : k < 2048)
include hk

theorem ramImage_le {m : Nat} (hm : m < 4) : BitVec.ofNat 16 (k + 2048 * m) ≤ 0x1FFF#16 := by
  rw [BitVec.le_def, BitVec.toNat_ofNat, BitVec.toNat_ofNat]
  omega

theorem ramIndex_ramImage (m : Nat) : ramIndex (BitVec.ofNat 16 (k + 2048 * m)) = k := by
  rw [ramIndex_eq_mod, BitVec.toNat_ofNat]
  omega

theorem sameRamByte_ramImage {m n : Nat} (hm : m < 4) (hn : n < 4) :
    sameRamByte (BitVec.ofNat 16 (k + 2048 * m)) (BitVec.ofNat 16 (k + 2048 * n)) :=
  (sameRamByte_iff _ _).2
    ⟨ramImage_le hk hm, ramImage_le hk hn, (ramIndex_ramImage hk m).trans (ramIndex_ramImage hk n).symm⟩

end

end Sys2Proof.Machine
end

section
/-! PROOFS. The cartridge: what a valid and an invalid one claim, and what loading an image makes. -/

namespace Sys2Proof.Machine

section

variable {c : Cartridge}

theorem mapper_of_nrom (hv : c.valid = true) (hm : c.mapperId = 0x00) :
    c.mapper = some (.nrom c.header.prgChunks.toNat c.header.chrChunks.toNat) := by
  rcases c.mapper_cases with ⟨-, -, h⟩ | ⟨h, -⟩
  · exact h
  · exact absurd ⟨hv, hm⟩ h

/-- An invalid cartridge answers through no mapper (R92). -/
theorem mapper_of_invalid (hv : c.valid = false) : c.mapper = none := by
  unfold Cartridge.mapper
  rw [hv]
  rfl

/-- NROM claims CPU reads from 0x8000 on, at the masked address (R87). -/
theorem claimReadCpu_of_nrom (hv : c.valid = true) (hm : c.mapperId = 0x00) {addr : Addr} (h : 0x8000#16 ≤ addr) :
    c.claimReadCpu addr =
      some (addr &&& (if c.header.prgChunks.toNat > 1 then 0x7FFF#16 else 0x3FFF#16)).toNat := by
  unfold Cartridge.claimReadCpu
  rw [mapper_of_nrom hv hm, Option.bind_some, Mapper.mapReadCpu, if_pos h]

theorem claimReadCpu_of_invalid (hv : c.valid = false) (addr : Addr) : c.claimReadCpu addr = none := by
  unfold Cartridge.claimReadCpu
  rw [mapper_of_invalid hv]
  rfl

/-! The peripheral side (R88, R90, R91). -/

theorem readPpu_of_invalid (hv : c.valid = false) (addr : Addr) : c.readPpu addr = none := by
  unfold Cartridge.readPpu
  rw [mapper_of_invalid hv]
  rfl

theorem claimsWritePpu_of_invalid (hv : c.valid = false) (addr : Addr) : c.claimsWritePpu addr = false := by
  unfold Cartridge.claimsWritePpu
  rw [mapper_of_invalid hv]
  rfl

theorem readPpu_of_nrom (hv : c.valid = true) (hm : c.mapperId = 0x00) (addr : Addr) :
    c.readPpu addr = if addr ≤ 0x1FFF#16 then some (c.chr.read addr.toNat) else none := by
  unfold Cartridge.readPpu
  rw [mapper_of_nrom hv hm, Option.bind_some, Mapper.mapReadPpu]
  split <;> rfl

/-- The offset NROM gives a peripheral-side write. -/
theorem mapWritePpu_of_nrom (hv : c.valid = true) (hm : c.mapperId = 0x00) (addr : Addr) :
    (c.mapper.bind fun mp => mp.mapWritePpu addr) =
      if addr ≤ 0x1FFF#16 ∧ c.header.chrChunks.toNat = 0 then some addr.toNat else none := by
  rw [mapper_of_nrom hv hm]
  rfl

theorem claimsWritePpu_of_nrom (hv : c.valid = true) (hm : c.mapperId = 0x00) (addr : Addr) :
    c.claimsWritePpu addr = true ↔ addr ≤ 0x1FFF#16 ∧ c.header.chrChunks = 0x00 := by
  have hzero : c.header.chrChunks.toNat = 0 ↔ c.header.chrChunks = 0x00 := BitVec.toNat_inj (y := 0x00#8)
  unfold Cartridge.claimsWritePpu
  simp only [mapWritePpu_of_nrom hv hm, hzero]
  split <;> simp_all

/-- A write of the peripheral side that is not claimed changes nothing (R91). -/
theorem writePpu_of_unclaimed {addr : Addr} (v : Byte) (h : c.claimsWritePpu addr = false) : c.writePpu addr v = c := by
  unfold Cartridge.claimsWritePpu at h
  unfold Cartridge.writePpu Cartridge.chrAfterWrite
  rw [Option.isSome_eq_false_iff, Option.isNone_iff_eq_none] at h
  rw [h]

/-- A claimed one writes the CHR byte at the address (R88, R91). -/
theorem writePpu_of_claimed (hv : c.valid = true) (hm : c.mapperId = 0x00) {addr : Addr} (v : Byte)
    (h : c.claimsWritePpu addr = true) : c.writePpu addr v = { c with chr := c.chr.write addr.toNat v } := by
  unfold Cartridge.claimsWritePpu at h
  unfold Cartridge.writePpu Cartridge.chrAfterWrite
  rw [mapWritePpu_of_nrom hv hm] at h ⊢
  split at h
  · next hc => rw [if_pos hc]
  · cases h

end

/-! Loading an image (R81 to R83). -/

/-- The mapper id puts the second mapper byte's high nibble above the first's (R82). -/
theorem Header.mapperId_toNat (h : Header) : h.mapperId.toNat = h.mapper2.toNat / 16 * 16 + h.mapper1.toNat / 16 := by
  have h1 : h.mapper1.toNat / 16 < 2 ^ 4 := by have := h.mapper1.isLt; omega
  have h2 : h.mapper2.toNat / 16 * 16 < 256 := by have := h.mapper2.isLt; omega
  have hor : h.mapper2.toNat / 16 * 16 + h.mapper1.toNat / 16 = h.mapper2.toNat / 16 * 16 ||| h.mapper1.toNat / 16 := by
    simpa [Nat.shiftLeft_eq] using Nat.shiftLeft_add_eq_or_of_lt h1 (h.mapper2.toNat / 16)
  simp only [Header.mapperId, BitVec.toNat_or, BitVec.toNat_shiftLeft, BitVec.toNat_ushiftRight, Nat.shiftLeft_eq,
    Nat.shiftRight_eq_div_pow, Nat.reducePow]
  rw [Nat.mod_eq_of_lt h2, hor]

/-- The PRG data stands after the header and the trainer (R80, R81). -/
theorem Header.prgStart_eq (h : Header) : h.prgStart = if h.mapper1.getLsbD 2 then 528 else 16 := by
  unfold Header.prgStart Header.trainer
  split <;> rfl

theorem mapperFor_isSome (id : Byte) (prgBanks chrBanks : Nat) :
    (mapperFor id prgBanks chrBanks).isSome = true ↔ id = 0x00 := by
  unfold mapperFor
  split <;> simp_all

theorem Header.loadsValid_iff (h : Header) (length : Nat) :
    h.loadsValid length = true ↔
      16 ≤ length ∧ h.neededLength ≤ length ∧ h.mapperId = 0x00 ∧ h.prgChunks.toNat ≠ 0 := by
  simp only [Header.loadsValid, Bool.and_eq_true, decide_eq_true_eq, bne_iff_ne, mapperFor_isSome, and_assoc]

/-- A memory filled from a part of an image holds the bytes of that part. -/
theorem Memory.read_ofBytes_part {image : List Byte} {start size k : Nat} (hfit : start + size ≤ image.length)
    (hk : k < size) : (Memory.ofBytes ((image.drop start).take size)).read k = image.getD (start + k) 0 := by
  have hlen : k < ((image.drop start).take size).length := by
    rw [List.length_take, List.length_drop]
    omega
  rw [Memory.read_ofBytes hlen, List.getD_eq_getElem?_getD, List.getD_eq_getElem?_getD, List.getElem?_take_of_lt hk,
    List.getElem?_drop]
  rfl

end Sys2Proof.Machine
end

section
/-! PROOFS. Decoding what the encoder laid down, and decoding what a fetch read. -/

namespace Sys2Proof

/-! Decoding, by the length of the opcode's mode (R124). -/

theorem decode_one {b : Byte} (h : (descriptor b).mode.length = 1) (rest : List Byte) :
    decode (b :: rest) = .ok (assemble b 0 0, rest) := by
  simp only [decode, h]

theorem decode_two {b : Byte} (h : (descriptor b).mode.length = 2) (b1 : Byte) (rest : List Byte) :
    decode (b :: b1 :: rest) = .ok (assemble b b1 0, rest) := by
  simp only [decode, h]

theorem decode_three {b : Byte} (h : (descriptor b).mode.length = 3) (b1 b2 : Byte) (rest : List Byte) :
    decode (b :: b1 :: b2 :: rest) = .ok (assemble b b1 b2, rest) := by
  simp only [decode, h]

/-- As many bytes as the opcode's mode has decode, to an instruction assembled from them, with none left over. -/
theorem decode_of_length {b : Byte} {rest : List Byte} (h : (b :: rest).length = (descriptor b).mode.length) :
    ∃ b1 b2, decode (b :: rest) = .ok (assemble b b1 b2, []) := by
  have hlength := (descriptor b).mode.length_cases
  match rest, h with
  | [], h => exact ⟨0, 0, decode_one h.symm []⟩
  | [b1], h => exact ⟨b1, 0, decode_two h.symm b1 []⟩
  | [b1, b2], h => exact ⟨b1, b2, decode_three h.symm b1 b2 []⟩
  | _ :: _ :: _ :: _, h =>
    simp only [List.length_cons] at h
    omega

/-! The opcode byte of an assembled instruction. -/

/-- The operand bytes have no part in it. -/
theorem opcode?_instrOf (op : Op) (mode : Mode) (b0 b1 b2 : Byte) :
    (instrOf op (operandOf mode b1 b2) b0 b1 b2).opcode? = (instrOf op (operandOf mode 0 0) b0 0 0).opcode? := by
  cases op
  case adc | and | asl | bit | cmp | cpx | cpy | dec | eor | inc | jmp | lda | ldx | ldy | lsr | ora | rol | ror | sbc
    | sta | stx | sty => cases mode <;> rfl
  all_goals rfl

/-- The encoder gives an assembled instruction the opcode byte it was assembled from (R125). -/
theorem opcode?_assemble (b0 b1 b2 : Byte) : (assemble b0 b1 b2).opcode? = some b0 := by
  have hzero : (assemble b0 0 0).opcode? = some b0 :=
    forall_byte (P := fun b => (assemble b 0 0).opcode? = some b) (by decide +kernel) b0
  exact (opcode?_instrOf _ _ b0 b1 b2).trans hzero

/-! Decoding inverts encoding (R120). -/

/-- The operand bytes of an operand form, after an opcode byte of its mode, decode to that form. -/
theorem decode_operand {b : Byte} {o : Operand} (h : (descriptor b).mode = o.mode) (rest : List Byte) :
    ∃ b1 b2, decode (b :: (o.bytes ++ rest)) = .ok (instrOf (descriptor b).op o b b1 b2, rest) := by
  cases o <;> simp only [Operand.mode] at h <;>
    simp [decode, h, Mode.length, Operand.bytes, assemble, operandOf]

/-- The bytes of a well-formed instruction decode to it, whatever bytes follow. -/
theorem decode_encode_append {i : Instr} (hw : i.wf = true) (rest : List Byte) :
    decode (encode i ++ rest) = .ok (i, rest) := by
  obtain ⟨b, hb⟩ := exists_opcode_of_wf hw
  obtain ⟨hop, hmode⟩ := descriptor_of_opcode hb
  have hbytes : encode i = b :: i.operandBytes := by simp only [encode, hb]
  rw [hbytes, List.cons_append]
  cases i
  case adc o | and o | asl o | bit o | cmp o | cpx o | cpy o | dec o | eor o | inc o | jmp o | lda o | ldx o | ldy o | lsr o
    | ora o | rol o | ror o | sbc o | sta o | stx o | sty o =>
    obtain ⟨b1, b2, h⟩ := decode_operand hmode rest
    rw [hop] at h
    exact h
  case bcc r | bcs r | beq r | bne r | bmi r | bpl r | bvc r | bvs r =>
    have h := decode_two (by rw [hmode]; rfl) r rest
    rw [assemble, hop] at h
    exact h
  case jsr t =>
    have h := decode_three (by rw [hmode]; rfl) t.low t.high rest
    rw [assemble, hop] at h
    simp only [Instr.op, instrOf, Addr.ofBytes_low_high] at h
    exact h
  case nop n | xxx n =>
    have h := decode_one (by rw [hmode]; rfl) rest
    rw [assemble, hop] at h
    have hn : n = b := by
      simp only [Instr.opcode?] at hb
      split at hb <;> cases hb
      rfl
    rw [hn]
    exact h
  all_goals
    have h := decode_one (by rw [hmode]; rfl) rest
    rw [assemble, hop] at h
    exact h

theorem decode_encode {i : Instr} (hw : i.wf = true) : decode (encode i) = .ok (i, []) := by
  simpa using decode_encode_append hw []

namespace Machine

/-- The first byte a fetch reads is the one at PC (R120, R150). -/
theorem fetchBytes_eq_cons (s : State) : ∃ rest, (fetchBytes s).1 = busValue s.pc s :: rest := by
  unfold fetchBytes
  rcases (descriptor (busValue s.pc s)).mode.length_cases with h | h | h <;> rw [h] <;> exact ⟨_, rfl⟩

/-- A fetch reads as many bytes as the mode of the opcode byte at PC has (R124). -/
theorem fetchBytes_length (s : State) : (fetchBytes s).1.length = (descriptor (busValue s.pc s)).mode.length :=
  readBytes_length _ _ s

end Machine

end Sys2Proof
end

section
/-! PROOFS. The step at and between instruction boundaries, and what an execution keeps of the memories and counters. -/

namespace Sys2Proof.Machine

/-- A system tick that reaches the CPU in the middle of an instruction (R153). -/
theorem systemTick_between_boundaries {s : State} (hsys : s.sysclk % 3 = 0) (hcyc : s.cyc ≠ 0) :
    systemTick s = .next (countTick (countDown (periphClock s))) := by
  rw [systemTick_cpu hsys, cpuClock_idle (s := periphClock s) hcyc]
  rfl

/-- A system tick that reaches the CPU at an instruction boundary (R150). -/
theorem systemTick_at_boundary {s : State} (hsys : s.sysclk % 3 = 0) (hcyc : s.cyc = 0) :
    systemTick s = onNext countTick (onNext countDown (executeNext (periphClock s))) := by
  rw [systemTick_cpu hsys, cpuClock_boundary (s := periphClock s) hcyc]

/-- A step whose host call is a system tick is that tick (R335). -/
theorem step_of_clock {s : State} (h : nextCall s = .clock) : step s = systemTick { s with host := s.host.tail } := by
  unfold step
  rw [h]
  rfl

theorem exists_runStore {i : Instr} (hw : i.wf = true) (o : Operand) (v : State → Byte) (s : State) :
    ∃ t, runStore i o v s = .next t := ⟨_, runInstr_next hw _ _ s⟩

theorem exists_runBranch {i : Instr} (hw : i.wf = true) (rel8 : Byte) (cond : Byte → Bool) (s : State) :
    ∃ t, runBranch i rel8 cond s = .next t := ⟨_, runInstr_next hw _ _ s⟩

/-- Every well-formed instruction executes (R321). -/
theorem exists_exec {i : Instr} (hw : i.wf = true) (s : State) : ∃ t, exec i s = .next t := by
  cases i <;> simp only [exec]
  case adc | sbc | and | ora | eor | bit | cmp | cpx | cpy | lda | ldx | ldy => exact ⟨_, runRead_next hw _ _ _ s⟩
  case sta | stx | sty => exact exists_runStore hw _ _ s
  case asl | lsr | rol | ror | inc | dec => exact ⟨_, runModify_next hw _ _ _ s⟩
  case bcc | bcs | beq | bne | bmi | bpl | bvc | bvs => exact exists_runBranch hw _ _ s
  case jmp | jsr | nop => exact ⟨_, runInstr_next hw _ _ s⟩
  all_goals exact ⟨_, runImplied_next hw _ s⟩

/-- The next instruction is the one whose bytes the fetch reads (R150). -/
theorem executeNext_of_fetch {s : State} {i : Instr} (hw : i.wf = true) (h : (fetchBytes s).1 = encode i) :
    executeNext s = exec i (fetchBytes s).2 := by
  unfold executeNext
  rw [h, decode_encode hw]

/-! What a tick that only counts keeps (R153, R154). -/

theorem idleKept_countTick_periphClock (s : State) : IdleKept s (countTick (periphClock s)) := rfl

theorem idleKept_countTick_countDown_periphClock (s : State) : IdleKept s (countTick (countDown (periphClock s))) := rfl

/-! SYSCLK and the host's calls in the state an operation runs on. -/

@[simp] theorem entered_sysclk (i : Instr) (s : State) : (entered i s).sysclk = s.sysclk := by simp [entered]
@[simp] theorem entered_host (i : Instr) (s : State) : (entered i s).host = s.host := by simp [entered]
@[simp] theorem fetched_sysclk (i : Instr) (o : Operand) (s : State) : (fetched i o s).sysclk = s.sysclk := by simp [fetched]
@[simp] theorem fetched_host (i : Instr) (o : Operand) (s : State) : (fetched i o s).host = s.host := by simp [fetched]

/-- A result written back to A leaves RAM alone (R214). -/
theorem writeBack_ram_of_acc {o : Operand} (h : o.mode = .acc) (v : Byte) (s : State) : (writeBack o v s).ram = s.ram := by
  cases o
  case acc => rfl
  all_goals cases h

theorem wf_of_runStore {i : Instr} {o : Operand} {v : State → Byte} {s t : State} (h : runStore i o v s = .next t) :
    i.wf = true := (runInstr_inv h).1

/-- No store has the accumulator form (R283 to R285). -/
theorem store_mode_ne_acc {i : Instr} (hw : i.wf = true) (hop : i.op ∈ [.sta, .stx, .sty]) : i.mode ≠ .acc := by
  intro hm
  simp only [List.mem_cons, List.not_mem_nil, or_false] at hop
  rcases hop with h | h | h <;> simp [Instr.wf, h, hm, Op.modes] at hw

end Sys2Proof.Machine
end

section
/-! PROOFS. The obligations of the memory's family (20_memory.md). -/

namespace Sys2Proof.Proofs

open Sys2Proof Sys2Proof.Machine

/-- Settles O6: the tick either misses the CPU or finds it in the middle of an instruction. -/
theorem tickThatStartsNoInstruction : Obligations.TickThatStartsNoInstruction := by
  unfold Obligations.TickThatStartsNoInstruction
  intro s hcall hidle
  by_cases hsys : s.sysclk % 3 = 0
  · have hcyc : s.cyc ≠ 0 := hidle.resolve_left (not_not_intro hsys)
    rw [if_pos hsys]
    exact ⟨_, (step_of_clock hcall).trans (systemTick_between_boundaries hsys hcyc), rfl, rfl, rfl, rfl,
      idleKept_countTick_countDown_periphClock _⟩
  · rw [if_neg hsys]
    exact ⟨_, (step_of_clock hcall).trans (systemTick_idle hsys), rfl, rfl, rfl, rfl, idleKept_countTick_periphClock _⟩

/-- Settles O13: the four addresses have one RAM index, and a write reaches that index only. -/
theorem ramAppearsFourTimes : Obligations.RamAppearsFourTimes := by
  unfold Obligations.RamAppearsFourTimes
  intro s k m n v hk hm hn hwf
  refine ⟨busValue_busWrite_sameRamByte v hwf (sameRamByte_ramImage hk hm hn), ?_, ?_⟩
  · rw [busValue_ram _ (ramImage_le hk hn), ramIndex_ramImage hk]
  · intro addr hwindow hother
    refine memoryKeptBut_busWrite _ v s addr hwindow fun hsame => ?_
    obtain ⟨-, hlow, hindex⟩ := (sameRamByte_iff _ _).1 hsame
    rw [ramIndex_ramImage hk, ramIndex_eq_mod] at hindex
    exact hother (by bv_omega) hindex.symm

/-- Settles O14: the claim decides first, then the address. -/
theorem busReadOrder : Obligations.BusReadOrder := by
  unfold Obligations.BusReadOrder
  intro addr s
  refine ⟨fun off hclaim => busValue_of_cartridge (readResponder_of_claimed hclaim), fun hfree => ⟨?_, ?_, ?_⟩,
    afterRead_of_not_inWindow⟩
  · intro hlow
    rw [busValue_ram _ (by bv_omega), ramIndex_eq_mod]
  · intro hlow hhigh
    have hperiph := readResponder_periph s.cart (addr := addr) (by bv_omega) (by bv_omega)
    rw [← periphReg_eq_ofNat_mod]
    exact ⟨busValue_of_periph hperiph, afterRead_of_periph hperiph⟩
  · intro hlow
    exact busValue_of_openBus (readResponder_of_unclaimed hfree (by bv_omega))

/-- Settles O15: a write is routed as a read of the same address is. -/
theorem busWriteOrder : Obligations.BusWriteOrder := by
  unfold Obligations.BusWriteOrder
  intro addr v s
  rw [Cartridge.claimWriteCpu_eq]
  refine ⟨fun off hclaim => busWrite_of_cartridge v (readResponder_of_claimed hclaim), fun hfree => ⟨?_, ?_, ?_⟩⟩
  · intro hlow
    exact busWrite_of_ram v s (by bv_omega)
  · intro hlow hhigh
    rw [← periphReg_eq_ofNat_mod]
    exact busWrite_of_periph v (readResponder_periph s.cart (by bv_omega) (by bv_omega))
  · intro hlow
    exact busWrite_of_openBus v (readResponder_of_unclaimed hfree (by bv_omega))

/-- Settles O16: the two masks are the two remainders. -/
theorem nromProgramWindow : Obligations.NromProgramWindow := by
  unfold Obligations.NromProgramWindow
  intro s addr hv hm
  rw [Cartridge.claimWriteCpu_eq]
  refine ⟨fun hlow => ⟨s.cart.claimReadCpu_low hlow, s.cart.claimReadCpu_low hlow⟩, fun hhigh => ⟨rfl, ?_, ?_⟩⟩
  · intro hbanks
    have hclaim := claimReadCpu_of_nrom hv hm hhigh
    rw [if_pos hbanks, (toNat_and_prgMask addr).1, show addr.toNat % 0x8000 = addr.toNat - 0x8000 by bv_omega] at hclaim
    exact ⟨hclaim, busValue_of_cartridge (readResponder_of_claimed hclaim)⟩
  · intro hbanks
    have hclaim := claimReadCpu_of_nrom hv hm hhigh
    rw [if_neg (Nat.not_lt.mpr hbanks), (toNat_and_prgMask addr).2] at hclaim
    exact ⟨hclaim, busValue_of_cartridge (readResponder_of_claimed hclaim)⟩

/-- Settles O17: a claimed write is one CHR write at the address, and a read is a CHR read there. -/
theorem nromCharacterWindow : Obligations.NromCharacterWindow := by
  unfold Obligations.NromCharacterWindow
  intro c addr v hv hm
  have hread := readPpu_of_nrom hv hm
  refine ⟨fun h => by rw [hread, if_pos h], fun h => by rw [hread, if_neg (BitVec.not_le.mpr h)],
    claimsWritePpu_of_nrom hv hm addr, writePpu_of_unclaimed v, fun hclaim => ?_⟩
  have hlow := ((claimsWritePpu_of_nrom hv hm addr).1 hclaim).1
  rw [writePpu_of_claimed hv hm v hclaim]
  have hread' := readPpu_of_nrom (c := { c with chr := c.chr.write addr.toNat v }) hv hm
  refine ⟨rfl, fun hwf => ?_, fun other hne => ?_⟩
  · rw [hread', if_pos hlow, Memory.read_write hwf, if_pos rfl]
  · rw [hread', hread, Memory.read_write_other (fun he => hne (BitVec.eq_of_toNat_eq he))]

/-- Settles O19: the header's fields are the image's bytes, and PRG and CHR are parts of the image that fit into it. -/
theorem loadingAnImage : Obligations.LoadingAnImage := by
  unfold Obligations.LoadingAnImage
  intro image chrRamInit c prgBanks chrBanks p0 c0
  have hp0 : p0 = c.header.prgStart := c.header.prgStart_eq.symm
  have hc0 : c0 = c.header.chrStart := congrArg (· + prgBanks * 16384) hp0
  rw [hp0, hc0]
  have hvalid := c.header.loadsValid_iff image.length
  refine ⟨c.header.mapperId_toNat, hvalid, fun hload => ?_⟩
  obtain ⟨-, hfit, -, -⟩ := hvalid.1 hload
  refine ⟨fun k hk => ?_, fun k hk => ?_, fun hnone => if_pos hnone, rfl, rfl⟩
  · exact Memory.read_ofBytes_part (Nat.le_trans (Nat.le_add_right _ _) hfit) hk
  · have hbank : chrBanks ≠ 0 := fun h => by simp [h] at hk
    have hchr : c.chr = Memory.ofBytes ((image.drop c.header.chrStart).take c.header.chrRomSize) := if_neg hbank
    rw [hchr]
    exact Memory.read_ofBytes_part hfit hk

/-- Settles O21: the stored byte is the one at PC, and every opcode byte decodes with the bytes fetched after it. -/
theorem storeIsSeenByTheNextFetch : Obligations.StoreIsSeenByTheNextFetch := by
  unfold Obligations.StoreIsSeenByTheNextFetch
  intro s addr v hwf _ hsame
  have hpc : busValue (busWrite addr v s).pc (busWrite addr v s) = v := busValue_busWrite_sameRamByte v hwf hsame
  obtain ⟨rest, hfetch⟩ := fetchBytes_eq_cons (busWrite addr v s)
  have hlength := fetchBytes_length (busWrite addr v s)
  rw [hpc] at hfetch
  rw [hfetch, hpc] at hlength
  obtain ⟨b1, b2, hdecode⟩ := decode_of_length hlength
  exact ⟨_, rest, hfetch, hdecode, opcode?_assemble v b1 b2⟩

/-- Settles O58, by the shape of each instruction. -/
theorem whichInstructionsWriteMemory : Obligations.WhichInstructionsWriteMemory := by
  unfold Obligations.WhichInstructionsWriteMemory
  intro i s t h
  cases i <;> simp only [exec] at h
  case adc | sbc | and | ora | eor | bit | cmp | cpx | cpy | lda | ldx | ldy =>
    obtain ⟨n, -, rfl⟩ := runRead_inv h
    simp
  case sta | stx | sty =>
    have hmode := store_mode_ne_acc (wf_of_runStore h) (by simp [Instr.op])
    obtain ⟨n, -, rfl⟩ := runStore_inv h
    simp [Instr.op, hmode]
  case asl | lsr | rol | ror | inc | dec =>
    obtain ⟨n, -, rfl⟩ := runModify_inv h
    refine ⟨by simp, by simp, by simp, fun hw => ?_⟩
    have hacc := hw.resolve_left (by simp [Instr.op])
    rw [loadCyc_ram, writeBack_ram_of_acc hacc]
    simp
  case bcc | bcs | beq | bne | bmi | bpl | bvc | bvs =>
    obtain ⟨n, -, _, _, rfl⟩ := runBranch_inv h rfl
    simp
  case jmp | jsr | nop =>
    obtain ⟨n, -, rfl⟩ := runPlain_inv h
    simp [Instr.op, Instr.mode]
  all_goals
    obtain ⟨n, -, rfl⟩ := runImplied_inv h
    simp [Instr.op, Instr.mode, softwareInterrupt, returnFromInterrupt]

/-- Settles O5: the fetched bytes decode to the instruction, and a well-formed instruction answers a next state. -/
theorem stepRunsTheDecodedInstruction : Obligations.StepRunsTheDecodedInstruction := by
  unfold Obligations.StepRunsTheDecodedInstruction
  intro s i hcall hsys hcyc hw ticked hfetch
  obtain ⟨t, ht⟩ := exists_exec hw (fetchBytes ticked).2
  refine ⟨t, ht, ?_⟩
  rw [step_of_clock hcall, systemTick_at_boundary (s := { s with host := s.host.tail }) hsys hcyc,
    executeNext_of_fetch hw hfetch, ht]
  rfl

/-- Settles O18: an invalid cartridge answers through no mapper, so the reset vector is open bus. -/
theorem invalidCartridgeClaimsNothing : Obligations.InvalidCartridgeClaimsNothing := by
  unfold Obligations.InvalidCartridgeClaimsNothing
  intro s addr v hv
  have hopen : ∀ a : Addr, 0x4000#16 ≤ a → busValue a s = 0x00 := fun a ha =>
    busValue_of_openBus (readResponder_of_unclaimed (claimReadCpu_of_invalid hv a) ha)
  have hvector : (busReset s).pc = vectorWord s 0xFFFC := congrArg State.pc (cpuReset_eq s)
  refine ⟨claimReadCpu_of_invalid hv addr, ?_, readPpu_of_invalid hv addr, claimsWritePpu_of_invalid hv addr,
    writePpu_of_unclaimed v (claimsWritePpu_of_invalid hv addr), hopen addr, ?_⟩
  · rw [Cartridge.claimWriteCpu_eq, claimReadCpu_of_invalid hv]
  · rw [hvector, vectorWord, hopen _ (by decide), hopen _ (by decide)]
    rfl

end Sys2Proof.Proofs
end

section
/-! PROOFS. What the decoder read, and what a fetch outside the peripheral's window reads. -/

namespace Sys2Proof

/-! Encoding inverts decoding (R120): an assembled instruction has the bytes it was assembled from. -/

/-- An operand form holds as many of the operand bytes as its mode has. REL is no mode of an operand form: the branches hold
their offset themselves. -/
theorem bytes_operandOf {mode : Mode} (h : mode ≠ .rel) (b1 b2 : Byte) :
    (operandOf mode b1 b2).bytes = [b1, b2].take (mode.length - 1) := by
  cases mode
  case rel => exact absurd rfl h
  case abs | abx | aby | ind => simp [operandOf, Operand.bytes, Mode.length]
  all_goals rfl

/-- A mnemonic in one of its modes holds as many of the operand bytes as the mode has (R122, R124). -/
theorem operandBytes_instrOf {op : Op} {mode : Mode} (h : mode ∈ op.modes) (b0 b1 b2 : Byte) :
    (instrOf op (operandOf mode b1 b2) b0 b1 b2).operandBytes = [b1, b2].take (mode.length - 1) := by
  cases op
  case adc | and | asl | bit | cmp | cpx | cpy | dec | eor | inc | jmp | lda | ldx | ldy | lsr | ora | rol | ror | sbc
    | sta | stx | sty =>
    have hrel : mode ≠ .rel := by
      rintro rfl
      simp [Op.modes] at h
    exact bytes_operandOf hrel b1 b2
  case jsr =>
    obtain rfl : mode = .abs := by simpa [Op.modes] using h
    simp [instrOf, Instr.operandBytes, Mode.length]
  case bcc | bcs | beq | bmi | bne | bpl | bvc | bvs =>
    obtain rfl : mode = .rel := by simpa [Op.modes] using h
    rfl
  all_goals
    obtain rfl : mode = .imp := by simpa [Op.modes] using h
    rfl

theorem wf_assemble (b0 b1 b2 : Byte) : (assemble b0 b1 b2).wf = true := wf_of_opcode (opcode?_assemble b0 b1 b2)

/-- An assembled instruction has the length of its opcode byte's mode (R124). -/
theorem length_assemble (b0 b1 b2 : Byte) : (assemble b0 b1 b2).length = (descriptor b0).mode.length :=
  congrArg Mode.length (descriptor_of_opcode (opcode?_assemble b0 b1 b2)).2.symm

theorem encode_assemble (b0 b1 b2 : Byte) :
    encode (assemble b0 b1 b2) = [b0, b1, b2].take (descriptor b0).mode.length := by
  have hmodes : (descriptor b0).mode ∈ (descriptor b0).op.modes := by simpa using descriptor_mode b0
  have hbytes : (assemble b0 b1 b2).operandBytes = [b1, b2].take ((descriptor b0).mode.length - 1) :=
    operandBytes_instrOf hmodes b0 b1 b2
  have hpos : (descriptor b0).mode.length ≠ 0 := by
    have := (descriptor b0).mode.length_cases
    omega
  simp only [encode, opcode?_assemble, hbytes, List.take_cons (Nat.pos_of_ne_zero hpos)]

/-- What the decoder answers is assembled from the bytes it took, and the rest is what it left. -/
theorem decode_inv {bytes rest : List Byte} {i : Instr} (h : decode bytes = .ok (i, rest)) :
    ∃ b0 b1 b2, i = assemble b0 b1 b2 ∧ bytes = [b0, b1, b2].take (descriptor b0).mode.length ++ rest := by
  cases bytes with
  | nil => cases h
  | cons b0 tail =>
    simp only [decode] at h
    split at h
    next hlength => cases h; exact ⟨b0, 0, 0, rfl, by rw [hlength]; rfl⟩
    next b1 _ hlength => cases h; exact ⟨b0, b1, 0, rfl, by rw [hlength]; rfl⟩
    next b1 b2 _ hlength => cases h; exact ⟨b0, b1, b2, rfl, by rw [hlength]; rfl⟩
    next => cases h

namespace Machine

/-- A byte read outside the peripheral's window leaves the state to the reads after it as it was (R72). -/
theorem readBytes_succ_of_not_inWindow {addr : Addr} (h : inWindow addr = false) (n : Nat) (s : State) :
    readBytes (n + 1) addr s = (busValue addr s :: (readBytes n (addr + 1) s).1, (readBytes n (addr + 1) s).2) := by
  simp only [readBytes, afterRead_of_not_inWindow h]

/-- A fetch outside the peripheral's window reads the bytes at PC, PC + 1 and PC + 2, as far as its mode goes, and leaves the
state as it was. -/
theorem fetchBytes_of_not_inWindow {s : State} (h0 : inWindow s.pc = false) (h1 : inWindow (s.pc + 1) = false)
    (h2 : inWindow (s.pc + 2) = false) :
    fetchBytes s = ([busValue s.pc s, busValue (s.pc + 1) s, busValue (s.pc + 2) s].take
      (descriptor (busValue s.pc s)).mode.length, s) := by
  have hnext : s.pc + 1 + 1 = s.pc + 2 := BitVec.add_assoc ..
  have h2' : inWindow (s.pc + 1 + 1) = false := hnext ▸ h2
  unfold fetchBytes
  rcases (descriptor (busValue s.pc s)).mode.length_cases with hlength | hlength | hlength <;> rw [hlength]
  · rw [readBytes_succ_of_not_inWindow h0]
    rfl
  · rw [readBytes_succ_of_not_inWindow h0, readBytes_succ_of_not_inWindow h1]
    rfl
  · rw [readBytes_succ_of_not_inWindow h0, readBytes_succ_of_not_inWindow h1, readBytes_succ_of_not_inWindow h2', hnext]
    rfl

end Machine

end Sys2Proof
end

section
/-! PROOFS. The obligations of the encoding's family (30_encoding.md). -/

namespace Sys2Proof.Proofs

open Sys2Proof Sys2Proof.Machine

/-- Settles O1: the opcode byte the encoder writes has the instruction's mnemonic and mode in the decode table, and its operand
bytes decode to its operand. -/
theorem decodeEncodeRoundTrip : Obligations.DecodeEncodeRoundTrip := by
  unfold Obligations.DecodeEncodeRoundTrip
  intro i rest hw
  exact decode_encode_append hw rest

/-- Settles O2: what is decoded is assembled from the bytes that were taken, and encodes to them. -/
theorem encodeDecodeRoundTrip : Obligations.EncodeDecodeRoundTrip := by
  unfold Obligations.EncodeDecodeRoundTrip
  intro bytes rest i h
  obtain ⟨b0, b1, b2, rfl, hbytes⟩ := decode_inv h
  exact ⟨wf_assemble b0 b1 b2, by rw [encode_assemble, hbytes]⟩

/-- Settles O3: a fetch reads as many bytes as the opcode byte's mode has, and so many always decode. -/
theorem everyFetchDecodes : Obligations.EveryFetchDecodes := by
  unfold Obligations.EveryFetchDecodes
  intro s
  obtain ⟨rest, hfetch⟩ := fetchBytes_eq_cons s
  have hread := fetchBytes_length s
  obtain ⟨b1, b2, hdecode⟩ := decode_of_length (hfetch ▸ hread)
  have hlength := length_assemble (busValue s.pc s) b1 b2
  refine ⟨_, hfetch ▸ hdecode, wf_assemble _ b1 b2, hread.trans hlength.symm, ?_, ?_⟩
  · exact hlength ▸ Mode.length_cases _
  · rintro ⟨h0, h1, h2⟩
    rw [fetchBytes_of_not_inWindow h0 h1 h2, hlength]
    exact ⟨rfl, rfl⟩

/-- Settles O4, by running the decoder on each word. -/
theorem wordsDecodeAsTheTablesSay : Obligations.WordsDecodeAsTheTablesSay := by
  unfold Obligations.WordsDecodeAsTheTablesSay
  and_intros <;> rfl

end Sys2Proof.Proofs
end

section
/-! PROOFS. What an addressing mode resolves to, and the one data read of an operand in memory. -/

namespace Sys2Proof.Machine

@[simp] theorem entered_pc (i : Instr) (s : State) : (entered i s).pc = s.pc + BitVec.ofNat 16 i.length := rfl
@[simp] theorem entered_ea (i : Instr) (s : State) : (entered i s).ea = s.ea := rfl

/-! Page zero. -/

theorem toNat_zeroPage (zp : Byte) : (zeroPage zp).toNat = zp.toNat := by
  have := zp.isLt
  simp only [zeroPage, zext16, BitVec.toNat_setWidth]
  omega

theorem zeroPage_le (zp : Byte) : zeroPage zp ≤ 0x1FFF#16 := by
  unfold zeroPage zext16
  bv_omega

/-- A byte of page zero is the RAM byte of that index (R66, R163). -/
theorem busValue_zeroPage (zp : Byte) (s : State) : busValue (zeroPage zp) s = s.ram.read zp.toNat := by
  have := zp.isLt
  rw [busValue_ram _ (zeroPage_le zp), ramIndex_eq_mod, toNat_zeroPage, Nat.mod_eq_of_lt (by omega)]

theorem afterRead_zeroPage (zp : Byte) (s : State) : afterRead (zeroPage zp) s = s := afterRead_of_ram s (zeroPage_le zp)

/-- A pointer in page zero is two RAM bytes, and reading it leaves no trace (R171, R172). -/
theorem readPair_zeroPage (zp : Byte) (s : State) :
    readPair (zeroPage zp) (zeroPage (zp + 1)) s = (pageZeroWord zp s, s) := by
  simp only [readPair, afterRead_zeroPage, busValue_zeroPage, pageZeroWord]

/-! Indexing and page crosses. -/

theorem add_zext16_eq_ofNat (base : Addr) (index : Byte) :
    base + zext16 index = BitVec.ofNat 16 (base.toNat + index.toNat) := by
  apply BitVec.eq_of_toNat_eq
  simp [zext16]

theorem pageCross_iff (base target : Addr) : pageCross base target = true ↔ target.high ≠ base.high := by
  simp [pageCross]

/-! The pointer forms, whose pointer is read in page zero (R171, R172). -/

theorem effectiveAddress_izx (zp : Byte) (s : State) : effectiveAddress (.izx zp) s = pageZeroWord (zp + s.x) s := by
  simp only [effectiveAddress, readPair_zeroPage]

theorem izyBase_eq (zp : Byte) (s : State) : izyBase zp s = (pageZeroWord zp s, s) := readPair_zeroPage zp s

theorem effectiveAddress_izy (zp : Byte) (s : State) :
    effectiveAddress (.izy zp) s = pageZeroWord zp s + zext16 s.y := by
  simp only [effectiveAddress, izyBase_eq]

theorem resolverBonus_izy (zp : Byte) (s : State) :
    resolverBonus (.izy zp) s = pageCross (pageZeroWord zp s) (pageZeroWord zp s + zext16 s.y) := by
  simp only [resolverBonus, izyBase_eq]

/-! The one data read. -/

section

variable {o : Operand}

/-- A resolver writes EA and nothing else, unless it writes M (ACC) or may read its pointer in the window (IND). -/
theorem resolve_eq_of_mode (h : o.mode ∉ [.acc, .ind]) (s : State) :
    resolve o s = { s with ea := effectiveAddress o s } := by
  have hpointer : afterPointerReads o s = s := afterPointerReads_eq s (by rintro ptr rfl; simp [Operand.mode] at h)
  have hlatch : (resolve o s).m = s.m := by
    cases o
    case acc => simp [Operand.mode] at h
    all_goals rfl
  rw [resolve_eq, hpointer, hlatch]

/-- Resolver and `fetch()` of an operand in memory make one data read, at the effective address (R155). -/
theorem loadOperand_eq_of_mode (h : o.mode ∉ [.acc, .imm, .ind]) (s : State) :
    loadOperand o s =
      { afterRead (effectiveAddress o s) s with
        ea := effectiveAddress o s
        m := busValue (effectiveAddress o s) s } := by
  have hfetch : ∀ r, fetchOperand o r = { afterRead r.ea r with m := busValue r.ea r } := by
    cases o
    case acc | imm => simp [Operand.mode] at h
    all_goals exact fun r => rfl
  rw [loadOperand, hfetch, resolve_eq_of_mode (by simp_all)]
  rfl

variable {i : Instr} {s : State}

/-- The data read of an instruction finds and leaves what a bus read in the state before the instruction does. -/
theorem operand_read_at (h : o.mode ∉ [.acc, .imm, .ind]) {target : Addr} (haddr : operandAddr i o s = target) :
    operandAddr i o s = target ∧ operandByte i o s = busValue target s ∧
      (fetched i o s).draws = (afterRead target s).draws ∧ (fetched i o s).periphLog = (afterRead target s).periphLog := by
  have hload := loadOperand_eq_of_mode h (entered i s)
  rw [show effectiveAddress o (entered i s) = target from haddr] at hload
  unfold operandByte fetched
  rw [hload]
  exact ⟨haddr, rfl, rfl, rfl⟩

/-- A data read in page zero finds the RAM byte and leaves no trace. -/
theorem operand_read_zeroPage (h : o.mode ∉ [.acc, .imm, .ind]) {zp : Byte} (haddr : operandAddr i o s = zeroPage zp)
    {k : Nat} (hk : zp.toNat = k % 256) :
    operandAddr i o s = BitVec.ofNat 16 (k % 256) ∧ operandByte i o s = s.ram.read (k % 256) ∧
      (fetched i o s).draws = s.draws ∧ (fetched i o s).periphLog = s.periphLog := by
  have hread := operand_read_at h haddr
  have htarget : zeroPage zp = BitVec.ofNat 16 (k % 256) := by
    rw [← hk, ← toNat_zeroPage, BitVec.ofNat_toNat, BitVec.setWidth_eq]
  rwa [busValue_zeroPage, afterRead_zeroPage, htarget, hk] at hread

/-- An absolute operand, with what its resolver says of the page (R167 to R169). -/
theorem operand_read_absolute (h : o.mode ∉ [.acc, .imm, .ind]) {base : Addr} {k : Nat}
    (haddr : operandAddr i o s = BitVec.ofNat 16 k)
    (hcross : resolverBonus o (entered i s) = pageCross base (operandAddr i o s)) :
    operandAddr i o s = BitVec.ofNat 16 k ∧ operandByte i o s = busValue (BitVec.ofNat 16 k) s ∧
      (fetched i o s).draws = (afterRead (BitVec.ofNat 16 k) s).draws ∧
      (fetched i o s).periphLog = (afterRead (BitVec.ofNat 16 k) s).periphLog ∧
      (resolverBonus o (entered i s) = true ↔ Addr.high (BitVec.ofNat 16 k) ≠ base.high) := by
  obtain ⟨-, hbyte, hdraws, hlog⟩ := operand_read_at h haddr
  rw [hcross, pageCross_iff, haddr]
  exact ⟨rfl, hbyte, hdraws, hlog, Iff.rfl⟩

end

end Sys2Proof.Machine
end

section
/-! PROOFS. The cycle columns of the instruction tables against the base counts of the decode table. -/

namespace Sys2Proof.Machine

/-! The base counts, one check of the decode table for each family (R125). -/

/-- The base count of a reading instruction, by its mode: what the cycle columns give without a page cross. -/
def readBase : Mode → Nat
  | .imp | .acc | .imm | .rel => 2
  | .zp0 => 3
  | .zpx | .zpy | .abs | .abx | .aby => 4
  | .ind | .izy => 5
  | .izx => 6

/-- The mnemonics whose instructions read an operand and write none. -/
def readOps : List Op := [.adc, .sbc, .and, .ora, .eor, .bit, .cmp, .cpx, .cpy, .lda, .ldx, .ldy]

theorem descriptor_base_of_read (b : Byte) :
    (descriptor b).op ∈ readOps → (descriptor b).base = readBase (descriptor b).mode :=
  forall_byte (P := fun b => (descriptor b).op ∈ readOps → (descriptor b).base = readBase (descriptor b).mode)
    (by decide +kernel) b

theorem descriptor_base_of_store (b : Byte) :
    (descriptor b).op ∈ [.sta, .stx, .sty] → (descriptor b).base = storeCycles (operandOf (descriptor b).mode 0 0) :=
  forall_byte (P := fun b => (descriptor b).op ∈ [.sta, .stx, .sty] →
    (descriptor b).base = storeCycles (operandOf (descriptor b).mode 0 0)) (by decide +kernel) b

theorem descriptor_base_of_modify (b : Byte) : (descriptor b).op ∈ [.asl, .lsr, .rol, .ror, .inc, .dec] →
    (descriptor b).base = modifyCycles (operandOf (descriptor b).mode 0 0) :=
  forall_byte (P := fun b => (descriptor b).op ∈ [.asl, .lsr, .rol, .ror, .inc, .dec] →
    (descriptor b).base = modifyCycles (operandOf (descriptor b).mode 0 0)) (by decide +kernel) b

/-- The counts of the NOP bytes (R307, R308); they depend on no state. -/
theorem descriptor_base_of_nop (b : Byte) :
    nopOpcodes.contains b = true → (descriptor b).base = cycleCount (.nop b) State.reset :=
  forall_byte (P := fun b => nopOpcodes.contains b = true → (descriptor b).base = cycleCount (.nop b) State.reset)
    (by decide +kernel) b

/-- The counts of the XXX bytes (R309). -/
theorem descriptor_base_of_xxx (b : Byte) : isXxxOpcode b = true → (descriptor b).base = xxxCycles b :=
  forall_byte (P := fun b => isXxxOpcode b = true → (descriptor b).base = xxxCycles b) (by decide +kernel) b

/-- What the decode table says of an instruction's opcode byte holds of the instruction. -/
theorem descriptor_opcode {i : Instr} (hw : i.wf = true) :
    (descriptor (i.opcode?.getD 0)).op = i.op ∧ (descriptor (i.opcode?.getD 0)).mode = i.mode := by
  obtain ⟨b, hb⟩ := exists_opcode_of_wf hw
  rw [hb]
  exact descriptor_of_opcode hb

theorem base_of_opcode {i : Instr} {b : Byte} (h : i.opcode? = some b) :
    (descriptor (i.opcode?.getD 0)).base = (descriptor b).base := by rw [h]; rfl

/-! The total of each shape of instruction is its column's (R151). -/

/-- A well-formed store answers one bus write on the state with the address in EA. -/
theorem runStore_next {i : Instr} (hw : i.wf = true) (o : Operand) (v : State → Byte) (s : State) :
    runStore i o v s =
      .next (loadCyc ((descriptor (i.opcode?.getD 0)).base + bonus (resolverBonus o (entered i s)) false)
        (busWrite (operandAddr i o s) (v (resolve o (entered i s))) (resolve o (entered i s)))) := runInstr_next hw _ _ s

/-- A page cross is one more cycle (R168, R174). -/
theorem bonus_pageCross (base target : Addr) : bonus (pageCross base target) true = crossCycle base target := by
  by_cases h : target.high = base.high <;> simp [bonus, pageCross, crossCycle, h]

theorem readCycles_eq (i : Instr) (o : Operand) (s : State) :
    readCycles o s = readBase o.mode + bonus (resolverBonus o (entered i s)) true := by
  cases o
  case abx | aby => simp only [resolverBonus, bonus_pageCross]; rfl
  case izy zp => rw [resolverBonus_izy, bonus_pageCross]; rfl
  all_goals rfl

section

variable {i : Instr} {o : Operand} (hw : i.wf = true) (hmode : i.mode = o.mode)

include hw hmode

/-- A reading instruction whose operation does not ask for the extra cycle has no mode that offers it. -/
theorem total_of_read (hop : i.op ∈ readOps) {xb : Bool} (hxb : xb = true ∨ ∀ s, resolverBonus o s = false) (s : State) :
    (descriptor (i.opcode?.getD 0)).base + bonus (resolverBonus o (entered i s)) xb = readCycles o s := by
  obtain ⟨hop', hmode'⟩ := descriptor_opcode hw
  rw [descriptor_base_of_read _ (hop' ▸ hop), hmode', hmode, readCycles_eq i]
  rcases hxb with rfl | hnone
  · rfl
  · rw [hnone]; rfl

theorem total_of_store (hop : i.op ∈ [.sta, .stx, .sty]) (xa : Bool) :
    (descriptor (i.opcode?.getD 0)).base + bonus xa false = storeCycles o := by
  obtain ⟨hop', hmode'⟩ := descriptor_opcode hw
  rw [descriptor_base_of_store _ (hop' ▸ hop), hmode', hmode]
  cases xa <;> cases o <;> rfl

theorem total_of_modify (hop : i.op ∈ [.asl, .lsr, .rol, .ror, .inc, .dec]) (xa : Bool) :
    (descriptor (i.opcode?.getD 0)).base + bonus xa false = modifyCycles o := by
  obtain ⟨hop', hmode'⟩ := descriptor_opcode hw
  rw [descriptor_base_of_modify _ (hop' ▸ hop), hmode', hmode]
  cases xa <;> cases o <;> rfl

end

/-- BIT, CPX and CPY have no indexed form (R203, R221, R222). -/
theorem resolverBonus_of_no_indexed_form {i : Instr} {o : Operand} (hw : i.wf = true) (hmode : i.mode = o.mode)
    (hop : i.op ∈ [.bit, .cpx, .cpy]) (s : State) : resolverBonus o s = false := by
  have hmodes : o.mode ∈ i.op.modes := by
    simp only [Instr.wf, Bool.and_eq_true, List.contains_iff_mem] at hw
    exact hmode ▸ hw.1
  simp only [List.mem_cons, List.not_mem_nil, or_false] at hop
  cases o
  case abx | aby | izy => rcases hop with h | h | h <;> simp [h, Op.modes, Operand.mode] at hmodes
  all_goals rfl

/-! Branches (R240). -/

/-- A well-formed branch answers REL, EA and PC, with the entered state's target. -/
theorem runBranch_next {i : Instr} (hw : i.wf = true) (rel8 : Byte) (cond : Byte → Bool) (s : State) :
    runBranch i rel8 cond s =
      .next (loadCyc ((descriptor (i.opcode?.getD 0)).base + branchPenalty (cond s.p) rel8 (entered i s))
        { entered i s with
          rel := sext16 rel8
          ea := if cond s.p then branchTarget rel8 (entered i s) else s.ea
          pc := if cond s.p then branchTarget rel8 (entered i s) else (entered i s).pc }) := runInstr_next hw _ _ s

/-- The target is counted from the address of the next instruction. -/
theorem branchTarget_entered {i : Instr} (hlength : i.length = 2) (rel8 : Byte) (s : State) :
    branchTarget rel8 (entered i s) = branchGoal rel8 s := by
  simp only [branchTarget, branchGoal, entered_pc, hlength, sext16, BitVec.signExtend, BitVec.ofInt_add,
    BitVec.ofInt_natCast, BitVec.ofNat_toNat, BitVec.setWidth_eq]
  rfl

theorem total_of_branch {i : Instr} (hw : i.wf = true) (hmode : i.mode = .rel) (taken : Bool) (rel8 : Byte) (s : State) :
    (descriptor (i.opcode?.getD 0)).base + branchPenalty taken rel8 (entered i s) = branchCycles taken rel8 s := by
  have hlength : i.length = 2 := by rw [Instr.length, hmode]; rfl
  rw [descriptor_base_of_rel _ ((descriptor_opcode hw).2.trans hmode), branchPenalty,
    branchTarget_entered hlength, entered_pc, hlength]
  cases taken
  case false => rfl
  case true => by_cases h : (branchGoal rel8 s).high = (s.pc + 2#16).high <;> simp [branchCycles, crossCycle, pageCross, h]

end Sys2Proof.Machine
end

section
/-! PROOFS. The CPU ticks an instruction occupies, when the host raises no event (R153). -/

namespace Sys2Proof.Machine

/-- No total is below 2: no base count is (R151). -/
theorem exists_exec_two_le {i : Instr} (hw : i.wf = true) (s : State) : ∃ t, exec i s = .next t ∧ 2 ≤ t.cyc := by
  have hbase (extra : Nat) : 2 ≤ (descriptor (i.opcode?.getD 0)).base + extra := Nat.le_add_right_of_le (base_bounds i).1
  cases i <;> simp only [exec]
  case adc | sbc | and | ora | eor | bit | cmp | cpx | cpy | lda | ldx | ldy => exact ⟨_, runRead_next hw _ _ _ s, hbase _⟩
  case sta | stx | sty => exact ⟨_, runStore_next hw _ _ s, hbase _⟩
  case asl | lsr | rol | ror | inc | dec => exact ⟨_, runModify_next hw _ _ _ s, hbase _⟩
  case bcc | bcs | beq | bne | bmi | bpl | bvc | bvs => exact ⟨_, runBranch_next hw _ _ s, hbase _⟩
  case jmp | jsr | nop => exact ⟨_, runInstr_next hw _ _ s, hbase _⟩
  all_goals exact ⟨_, runImplied_next hw _ s, hbase _⟩

/-- A run goes on from where it has come to. -/
theorem run_add_of_next {M : Host.Core} {m : Nat} {s t : M.State} (h : M.run m s = .next t) (n : Nat) :
    M.run (m + n) s = M.run n t := by
  induction m generalizing s with
  | zero => cases h; rw [Nat.zero_add]
  | succ m ih =>
    rw [Nat.succ_add]
    cases hstep : M.step s <;> simp only [Host.Core.run, hstep] at h ⊢
    case next u => exact ih h
    all_goals cases h

theorem IdleKept.trans {s t u : State} (hst : IdleKept s t) (htu : IdleKept t u) : IdleKept s u := by
  unfold IdleKept at *
  rw [htu, hst]

/-- With no host event, a step is a system tick (R335). -/
theorem step_of_no_event {s : State} (h : s.host = []) : step s = systemTick s := by
  have hclock : nextCall s = .clock := by rw [nextCall, h]; rfl
  have htail : s.host.tail = s.host := by rw [h]; rfl
  rw [step_of_clock hclock, htail]

/-- With no host event, a step that does not reach the CPU (R100). -/
theorem step_idle {s : State} (hhost : s.host = []) (hsys : s.sysclk % 3 ≠ 0) :
    step s = .next (countTick (periphClock s)) :=
  (step_of_no_event hhost).trans (systemTick_idle hsys)

/-- With no host event, the two steps after one that reached the CPU do not reach it: the three are one CPU tick (R100). -/
theorem run_three {s u : State} (hstep : step s = .next u) (hhost : u.host = []) (hsys : u.sysclk % 3 = 1) :
    ∃ t, core.run 3 s = .next t ∧ t.cyc = u.cyc ∧ t.sysclk = u.sysclk + 2 ∧ IdleKept u t := by
  have hsecond := step_idle hhost (by omega)
  have hthird := step_idle (s := countTick (periphClock u)) hhost (by simp; omega)
  have hkept := (idleKept_countTick_periphClock u).trans (idleKept_countTick_periphClock (countTick (periphClock u)))
  refine ⟨countTick (periphClock (countTick (periphClock u))), ?_, rfl, rfl, hkept⟩
  simp only [Host.Core.run, core, hstep, hsecond, hthird]

/-- The CPU tick at a boundary leaves the machine where the instruction left it, but for the counts (R150, R153). -/
theorem run_three_at_boundary {s u : State} {i : Instr} (hhost : s.host = []) (hsys : s.sysclk % 3 = 0) (hcyc : s.cyc = 0)
    (hw : i.wf = true) (hfetch : (fetchBytes (periphClock s)).1 = encode i)
    (hexec : exec i (fetchBytes (periphClock s)).2 = .next u) (huhost : u.host = []) (husys : u.sysclk = s.sysclk) :
    ∃ t, core.run 3 s = .next t ∧ t.cyc = u.cyc - 1 ∧ t.sysclk = s.sysclk + 3 ∧ IdleKept u t := by
  have hstep : step s = .next (countTick (countDown u)) := by
    rw [step_of_no_event hhost, systemTick_at_boundary hsys hcyc, executeNext_of_fetch hw hfetch, hexec]
    rfl
  have hcounted : IdleKept u (countTick (countDown u)) := rfl
  obtain ⟨t, hrun, htcyc, htsys, hkept⟩ := run_three hstep huhost (by simp; omega)
  exact ⟨t, hrun, htcyc, by simp at htsys; omega, hcounted.trans hkept⟩

/-- A CPU tick in the middle of an instruction only counts (R153). -/
theorem run_three_between_boundaries {s : State} (hhost : s.host = []) (hsys : s.sysclk % 3 = 0) (hcyc : s.cyc ≠ 0) :
    ∃ t, core.run 3 s = .next t ∧ t.cyc = s.cyc - 1 ∧ t.sysclk = s.sysclk + 3 ∧ IdleKept s t := by
  have hstep := (step_of_no_event hhost).trans (systemTick_between_boundaries hsys hcyc)
  obtain ⟨t, hrun, htcyc, htsys, hkept⟩ := run_three hstep hhost (by simp; omega)
  exact ⟨t, hrun, htcyc, htsys, (idleKept_countTick_countDown_periphClock s).trans hkept⟩

end Sys2Proof.Machine
end

section
/-! PROOFS. The obligations of the execution's and the addressing modes' family (40_execution_and_addressing.md). -/

namespace Sys2Proof.Proofs

open Sys2Proof Sys2Proof.Machine

/-- Settles O52: the resolved address is `zeroPage` of a byte, so the one data read is a RAM read. -/
theorem zeroPageOperands : Obligations.ZeroPageOperands := by
  unfold Obligations.ZeroPageOperands
  intro i zp s at_
  exact ⟨operand_read_zeroPage (by simp [Operand.mode]) rfl (Nat.mod_eq_of_lt zp.isLt).symm,
    operand_read_zeroPage (by simp [Operand.mode]) rfl (BitVec.toNat_add zp s.x),
    operand_read_zeroPage (by simp [Operand.mode]) rfl (BitVec.toNat_add zp s.y)⟩

/-- Settles O53: the one data read is at the base plus the index, modulo 2^16. -/
theorem absoluteOperands : Obligations.AbsoluteOperands := by
  unfold Obligations.AbsoluteOperands
  intro i base s at_
  have hbase : base = BitVec.ofNat 16 base.toNat := by simp
  have hnoCross : false = pageCross base base := by simp [pageCross]
  exact ⟨operand_read_absolute (by simp [Operand.mode]) hbase hnoCross,
    operand_read_absolute (by simp [Operand.mode]) (add_zext16_eq_ofNat base s.x) rfl,
    operand_read_absolute (by simp [Operand.mode]) (add_zext16_eq_ofNat base s.y) rfl⟩

/-- Settles O55: the pointer is a word of page zero, and the one data read is at what it points to. -/
theorem pointerOperands : Obligations.PointerOperands := by
  unfold Obligations.PointerOperands
  intro i zp s at_
  have hindexed : pageZeroWord zp s + zext16 s.y = BitVec.ofNat 16 ((pageZeroWord zp s).toNat + s.y.toNat) :=
    add_zext16_eq_ofNat _ _
  refine ⟨operand_read_at (by simp [Operand.mode]) (effectiveAddress_izx zp (entered i s)),
    operand_read_at (by simp [Operand.mode]) ((effectiveAddress_izy zp (entered i s)).trans hindexed), rfl, ?_⟩
  rw [← hindexed, ← pageCross_iff]
  exact Iff.of_eq (congrArg (· = true) (resolverBonus_izy zp (entered i s)))

/-- Settles O54: the immediate byte is not read again, and A is in M already. -/
theorem immediateAndAccumulatorOperands : Obligations.ImmediateAndAccumulatorOperands := by
  unfold Obligations.ImmediateAndAccumulatorOperands
  intro i v s
  refine ⟨fun hlength => ?_, rfl, rfl, rfl, ?_⟩
  · have haddr : operandAddr i (.imm v) s = s.pc + BitVec.ofNat 16 i.length - 1 := rfl
    rw [haddr, hlength]
    bv_omega
  · rintro o (rfl | rfl) <;> exact ⟨rfl, rfl⟩

/-- Settles O51: the total is the base count of the decode table and what the shape of the instruction adds, and each column
of the instruction tables is that sum. -/
theorem cycleTotals : Obligations.CycleTotals := by
  unfold Obligations.CycleTotals
  intro i s hw
  cases i <;> simp only [exec]
  case adc o | sbc o | and o | ora o | eor o | cmp o | lda o | ldx o | ldy o =>
    exact ⟨_, runRead_next hw _ _ _ s, total_of_read hw rfl (by simp [Instr.op, readOps]) (.inl rfl) s⟩
  case bit o | cpx o | cpy o =>
    exact ⟨_, runRead_next hw _ _ _ s, total_of_read hw rfl (by simp [Instr.op, readOps])
      (.inr (resolverBonus_of_no_indexed_form hw rfl (by simp [Instr.op]))) s⟩
  case sta o | stx o | sty o => exact ⟨_, runStore_next hw _ _ s, total_of_store hw rfl (by simp [Instr.op]) _⟩
  case asl o | lsr o | rol o | ror o | inc o | dec o =>
    exact ⟨_, runModify_next hw _ _ _ s, total_of_modify hw rfl (by simp [Instr.op]) _⟩
  case bcc r | bcs r | beq r | bne r | bmi r | bpl r | bvc r | bvs r =>
    exact ⟨_, runBranch_next hw _ _ s, total_of_branch hw rfl _ r s⟩
  case jmp o =>
    refine ⟨_, runInstr_next hw _ _ s, ?_⟩
    cases o
    case abs => exact base_of_opcode (b := 0x4C) rfl
    case ind => exact base_of_opcode (b := 0x6C) rfl
    all_goals simp [Instr.wf, Instr.op, Instr.mode, Operand.mode, Op.modes] at hw
  case nop b =>
    have hb : nopOpcodes.contains b = true := by simpa [Instr.wf, Instr.op, Instr.mode, Op.modes] using hw
    have hopcode : (Instr.nop b).opcode? = some b := if_pos hb
    exact ⟨_, runInstr_next hw _ _ s, (base_of_opcode hopcode).trans (descriptor_base_of_nop b hb)⟩
  case xxx b =>
    have hb : isXxxOpcode b = true := by simpa [Instr.wf, Instr.op, Instr.mode, Op.modes] using hw
    have hopcode : (Instr.xxx b).opcode? = some b := if_pos hb
    exact ⟨_, runImplied_next hw _ s, (base_of_opcode hopcode).trans (descriptor_base_of_xxx b hb)⟩
  case jsr => exact ⟨_, runInstr_next hw _ _ s, base_of_opcode (b := 0x20) rfl⟩
  all_goals exact ⟨_, runImplied_next hw _ s, rfl⟩

/-- Settles O8, by induction on the CPU ticks: the first executes the instruction, each later one only counts. -/
theorem instructionTakesItsTotalOfTicks : Obligations.InstructionTakesItsTotalOfTicks := by
  unfold Obligations.InstructionTakesItsTotalOfTicks
  intro s u i hhost hsys hcyc hw hfetch hexec
  have ⟨huhost, husys⟩ : u.host = [] ∧ u.sysclk = s.sysclk := by
    obtain ⟨-, hsysclk, hcalls, -⟩ := whichInstructionsWriteMemory i _ u hexec
    rw [hsysclk, hcalls, fetchBytes_state]
    exact ⟨hhost, rfl⟩
  have htotal : 2 ≤ u.cyc := by
    obtain ⟨t, ht, hle⟩ := exists_exec_two_le hw (fetchBytes (periphClock s)).2
    cases hexec.symm.trans ht
    exact hle
  refine ⟨htotal, fun k hk => ?_⟩
  induction k, hk using Nat.le_induction with
  | base => exact fun _ => run_three_at_boundary hhost hsys hcyc hw hfetch hexec huhost husys
  | succ k hk ih =>
    intro hle
    obtain ⟨t, hrun, htcyc, htsys, hkept⟩ := ih (by omega)
    have hthost : t.host = [] := (congrArg State.host hkept).trans huhost
    obtain ⟨t', hrun', htcyc', htsys', hkept'⟩ := run_three_between_boundaries hthost (by omega) (by omega)
    exact ⟨t', (run_add_of_next hrun 3).trans hrun', by omega, by omega, hkept.trans hkept'⟩

end Sys2Proof.Proofs
end

section
/-! PROOFS. Addition with carry as arithmetic, and the one operation that ADC and SBC share (R190, R191). -/

namespace Sys2Proof.Machine

/-! The sum, the carry out and the overflow of R190, as arithmetic. -/

theorem sumWithCarry_toNat (a m : Byte) (carry : Bool) :
    (sumWithCarry a m carry).toNat = a.toNat + m.toNat + if carry then 1 else 0 := by
  cases carry <;> simp [sumWithCarry] <;> omega

theorem addResult_eq_ofNat (a m : Byte) (carry : Bool) :
    addResult a m carry = BitVec.ofNat 8 (a.toNat + m.toNat + if carry then 1 else 0) := by
  rw [← sumWithCarry_toNat, BitVec.ofNat_toNat, addResult]

/-- The carry out is bit 8 of a sum below 512. -/
theorem addCarry_eq_decide (a m : Byte) (carry : Bool) :
    addCarry a m carry = decide (256 ≤ a.toNat + m.toNat + if carry then 1 else 0) := by
  rw [← sumWithCarry_toNat]
  have hlt : (sumWithCarry a m carry).toNat < 512 := by
    rw [sumWithCarry_toNat]
    split <;> omega
  rw [addCarry, BitVec.getLsbD, Nat.testBit_eq_decide_div_mod_eq]
  exact decide_eq_decide.2 (by omega)

/-- The mask 0x80 keeps the sign bit alone. -/
theorem and_signMask_ne_zero (v : Byte) : v &&& 0x80#8 ≠ 0#8 ↔ v.msb = true := by
  have hmask : 0x80#8 = BitVec.twoPow 8 7 := rfl
  rw [hmask, BitVec.and_twoPow, BitVec.msb_eq_getLsbD_last]
  cases v.getLsbD 7 <;> decide

/-- The sign-agreement formula: the operands agree in sign, and the result does not (R190). -/
theorem addOverflow_iff_msb (a m : Byte) (carry : Bool) :
    addOverflow a m carry = true ↔ a.msb = m.msb ∧ a.msb ≠ (addResult a m carry).msb := by
  rw [addOverflow, decide_eq_true_iff, and_signMask_ne_zero]
  simp

/-- The sign-agreement formula is two's-complement overflow (R193): the signed sum leaves -128 to 127. -/
theorem addOverflow_eq_decide_toInt (a m : Byte) (carry : Bool) :
    addOverflow a m carry = decide (a.toInt + m.toInt + ((if carry then 1 else 0 : Nat) : Int) < -128 ∨
      127 < a.toInt + m.toInt + ((if carry then 1 else 0 : Nat) : Int)) := by
  rw [Bool.eq_iff_iff, addOverflow_iff_msb, addResult_eq_ofNat, decide_eq_true_iff]
  simp only [BitVec.msb_eq_decide, BitVec.toInt_eq_toNat_cond, BitVec.toNat_ofNat, decide_eq_decide, ne_eq]
  have ha := a.isLt
  have hm := m.isLt
  split <;> omega

/-! The complemented operand of R191: adding it subtracts the operand and the borrow. -/

theorem complemented_eq_not (m : Byte) : complemented m = ~~~m := BitVec.xor_allOnes

theorem complemented_toNat (m : Byte) : (complemented m).toNat = 255 - m.toNat := by
  rw [complemented_eq_not, BitVec.toNat_not]

theorem complemented_toInt (m : Byte) : (complemented m).toInt = -m.toInt - 1 := by
  simp only [BitVec.toInt_eq_toNat_cond, complemented_toNat]
  have hm := m.isLt
  omega

theorem addResult_complemented (a m : Byte) (carry : Bool) :
    addResult a (complemented m) carry =
      BitVec.ofInt 8 ((a.toNat : Int) - m.toNat - ((if carry then 0 else 1 : Nat) : Int)) := by
  rw [addResult_eq_ofNat, complemented_toNat]
  apply BitVec.eq_of_toNat_eq
  have hm := m.isLt
  cases carry <;> simp <;> omega

theorem addCarry_complemented (a m : Byte) (carry : Bool) :
    addCarry a (complemented m) carry = decide (m.toNat + (if carry then 0 else 1) ≤ a.toNat) := by
  rw [addCarry_eq_decide, complemented_toNat]
  have hm := m.isLt
  exact decide_eq_decide.2 (by split <;> omega)

theorem not_xor_complemented (a m : Byte) : ~~~(a ^^^ complemented m) = a ^^^ m := by
  rw [complemented_eq_not, BitVec.not_xor_right, BitVec.not_not]

theorem addOverflow_complemented (a m : Byte) (carry : Bool) :
    addOverflow a (complemented m) carry =
      decide (a.toInt - m.toInt - ((if carry then 0 else 1 : Nat) : Int) < -128 ∨
        127 < a.toInt - m.toInt - ((if carry then 0 else 1 : Nat) : Int)) := by
  rw [addOverflow_eq_decide_toInt, complemented_toInt]
  exact decide_eq_decide.2 (by split <;> omega)

/-! The operation. -/

/-- What ADC and SBC do with the operand in M: they add `g M` and the Carry to A (R190, R191). -/
def addition (g : Byte → Byte) (s : State) : State :=
  { s with a := addResult s.a (g s.m) (getFlag s.p .c), p := addFlags s.p s.a (g s.m) }

theorem exec_adc_eq (o : Operand) (s : State) : exec (.adc o) s = runRead (.adc o) o true (addition id) s := rfl

theorem exec_sbc_eq (o : Operand) (s : State) : exec (.sbc o) s = runRead (.sbc o) o true (addition complemented) s := rfl

/-- A well-formed addition writes A and P beside what every operand fetch leaves. -/
theorem runRead_addition {i : Instr} (hw : i.wf = true) (o : Operand) (g : Byte → Byte) (s : State) :
    ∃ n, runRead i o true (addition g) s = .next { operandDone i o n s with
      a := addResult s.a (g (operandByte i o s)) (getFlag s.p .c)
      p := addFlags s.p s.a (g (operandByte i o s)) } := by
  rw [runRead_next hw, addition, fetched_a, fetched_p, fetched_m]
  exact ⟨_, by rw [operandDone_eq]; rfl⟩

/-! The Decimal flag (R192): it reaches neither the resolver nor `fetch()`, and addition neither reads nor writes it. -/

theorem fetched_with_p (i : Instr) (o : Operand) (s : State) (q : Byte) :
    fetched i o { s with p := q } = { fetched i o s with p := q } := by
  cases o <;> rfl

theorem resolverBonus_with_p (i : Instr) (o : Operand) (s : State) (q : Byte) :
    resolverBonus o (entered i { s with p := q }) = resolverBonus o (entered i s) := by
  cases o <;> rfl

theorem addFlags_putFlag_d (p a m : Byte) (d : Bool) :
    addFlags (putFlag p .d d) a m = putFlag (addFlags p a m) .d d := by
  apply status_ext
  intro f
  cases f <;> simp [getFlag_addFlags, getFlag_putFlag]

theorem addition_putFlag_d (g : Byte → Byte) (s : State) (d : Bool) :
    addition g { s with p := putFlag s.p .d d } = { addition g s with p := putFlag (addition g s).p .d d } := by
  simp only [addition, addFlags_putFlag_d, getFlag_putFlag_other s.p d (show Flag.c ≠ .d by decide)]

/-- The two executions commute with writing D. -/
theorem runRead_addition_putFlag_d {i : Instr} (hw : i.wf = true) (o : Operand) (g : Byte → Byte) (s : State) (d : Bool) :
    ∃ t, runRead i o true (addition g) s = .next t ∧
      runRead i o true (addition g) { s with p := putFlag s.p .d d } = .next { t with p := putFlag t.p .d d } := by
  refine ⟨_, runRead_next hw o true _ s, ?_⟩
  rw [runRead_next hw, resolverBonus_with_p, fetched_with_p, ← fetched_p i o s, addition_putFlag_d]
  rfl

end Sys2Proof.Machine
end

section
/-! PROOFS. The obligations of the arithmetic family (41_arithmetic.md). -/

namespace Sys2Proof.Proofs

open Sys2Proof Sys2Proof.Machine

/-- Settles O30: the result and each flag of the addition is its arithmetic meaning. -/
theorem adcAddsWithCarry : Obligations.AdcAddsWithCarry := by
  unfold Obligations.AdcAddsWithCarry
  intro o s hw m carry r
  have hr : addResult s.a m (getFlag s.p .c) = r := addResult_eq_ofNat _ _ _
  obtain ⟨n, hexec⟩ := runRead_addition hw o id s
  have hflag := getFlag_addFlags s.p s.a m
  refine ⟨_, hexec, ?_, (hflag .c).trans (addCarry_eq_decide _ _ _), ?_, ?_,
    (hflag .v).trans (addOverflow_eq_decide_toInt _ _ _), ?_, flagsKept_addFlags _ _ _, memoryKept_of rfl rfl⟩
  all_goals rw [← hr]
  · rfl
  · exact hflag .z
  · exact hflag .v
  · exact hflag .n

/-- Settles O31: it is the addition of the complemented operand, each of whose results is a difference. -/
theorem sbcSubtractsWithBorrow : Obligations.SbcSubtractsWithBorrow := by
  unfold Obligations.SbcSubtractsWithBorrow
  intro o s hw m borrow r
  have hr : addResult s.a (complemented m) (getFlag s.p .c) = r := addResult_complemented _ _ _
  obtain ⟨n, hexec⟩ := runRead_addition hw o complemented s
  have hflag := getFlag_addFlags s.p s.a (complemented m)
  refine ⟨_, hexec, ?_, (hflag .c).trans (addCarry_complemented _ _ _), ?_, ?_,
    (hflag .v).trans (addOverflow_complemented _ _ _), ?_, flagsKept_addFlags _ _ _, memoryKept_of rfl rfl⟩
  all_goals rw [← hr]
  · rfl
  · exact hflag .z
  · rw [← not_xor_complemented]
    exact hflag .v
  · exact hflag .n

/-- Settles O32: writing D commutes with the addition, and the operand's fetch does not see it. -/
theorem decimalFlagChangesNoArithmetic : Obligations.DecimalFlagChangesNoArithmetic := by
  unfold Obligations.DecimalFlagChangesNoArithmetic
  intro o s d
  exact ⟨fun hw => runRead_addition_putFlag_d hw o id s d, fun hw => runRead_addition_putFlag_d hw o complemented s d⟩

end Sys2Proof.Proofs
end

section
/-! PROOFS. The one operation that AND, ORA and EOR share (R200 to R202): A is combined with the operand, and Zero and Negative
are set from the result. -/

namespace Sys2Proof.Machine

/-- What AND, ORA and EOR do with the operand in M, for the bitwise operator `f`. -/
def combineA (f : Byte → Byte → Byte) (s : State) : State :=
  { s with a := f s.a s.m, p := setZN s.p (f s.a s.m) }

theorem exec_and_eq (o : Operand) (s : State) : exec (.and o) s = runRead (.and o) o true (combineA (· &&& ·)) s := rfl

theorem exec_ora_eq (o : Operand) (s : State) : exec (.ora o) s = runRead (.ora o) o true (combineA (· ||| ·)) s := rfl

theorem exec_eor_eq (o : Operand) (s : State) : exec (.eor o) s = runRead (.eor o) o true (combineA (· ^^^ ·)) s := rfl

/-- Beside what every operand fetch leaves, a well-formed combination writes A, and Zero and Negative from A's new value. -/
theorem runRead_combineA {i : Instr} (hw : i.wf = true) (o : Operand) (f : Byte → Byte → Byte) (s : State) :
    ∃ t, runRead i o true (combineA f) s = .next t ∧
      t = { operandDone i o t.cyc s with a := f s.a (operandByte i o s), p := t.p } ∧
      ZeroNegativeFrom (f s.a (operandByte i o s)) s.p t.p ∧ MemoryKept s t := by
  rw [runRead_next hw, combineA, fetched_a, fetched_p, fetched_m]
  refine ⟨_, rfl, ?_, zeroNegativeFrom_setZN _ _, memoryKept_of (by simp) (by simp)⟩
  rw [operandDone_eq]
  rfl

end Sys2Proof.Machine
end

section
/-! PROOFS. The obligation of the logical family (42_logical.md). -/

namespace Sys2Proof.Proofs

open Sys2Proof Sys2Proof.Machine

/-- Settles O33: the three instructions are one combination of A with the operand, at three bitwise operators. -/
theorem logicalOperations : Obligations.LogicalOperations := by
  unfold Obligations.LogicalOperations
  intro o s
  rw [exec_and_eq, exec_ora_eq, exec_eor_eq]
  exact ⟨fun hw => runRead_combineA hw o _ s, fun hw => runRead_combineA hw o _ s, fun hw => runRead_combineA hw o _ s⟩

end Sys2Proof.Proofs
end

section
/-! PROOFS. A read-modify-write instruction in its accumulator and its memory form (R214), and the four shifts and rotates as one
such instruction each (R210 to R213). -/

namespace Sys2Proof.Machine

/-! The four results, as arithmetic on the operand. -/

theorem aslResult_eq_ofNat (p v : Byte) : aslResult p v = BitVec.ofNat 8 (2 * v.toNat) := by
  rw [aslResult, BitVec.shiftLeft_eq_mul_twoPow, BitVec.mul_comm, BitVec.ofNat_mul, BitVec.ofNat_toNat, BitVec.setWidth_eq]
  rfl

theorem lsrResult_eq_ofNat (p v : Byte) : lsrResult p v = BitVec.ofNat 8 (v.toNat / 2) := by
  apply BitVec.eq_of_toNat_eq
  rw [lsrResult, BitVec.toNat_ushiftRight, Nat.shiftRight_eq_div_pow, BitVec.toNat_ofNat]
  omega

/-- The Carry enters at bit 0, which the doubled operand leaves free. -/
theorem rolResult_eq_ofNat (p v : Byte) :
    rolResult p v = BitVec.ofNat 8 (2 * v.toNat + if getFlag p .c then 1 else 0) := by
  have hor := Nat.two_pow_add_eq_or_of_lt (i := 1) (b := if getFlag p .c then 1 else 0) (by split <;> decide) v.toNat
  rw [pow_one] at hor
  rw [hor, BitVec.ofNat_or, rolResult, ← aslResult_eq_ofNat p]
  cases getFlag p .c <;> rfl

/-- The Carry enters at bit 7, which the halved operand leaves free. -/
theorem rorResult_eq_ofNat (p v : Byte) :
    rorResult p v = BitVec.ofNat 8 (v.toNat / 2 + 128 * if getFlag p .c then 1 else 0) := by
  have hor := Nat.two_pow_add_eq_or_of_lt (i := 7) (b := v.toNat / 2) (by omega) (if getFlag p .c then 1 else 0)
  rw [Nat.add_comm, hor, BitVec.ofNat_or, rorResult, ← lsrResult_eq_ofNat p]
  cases getFlag p .c <;> rfl

/-! What a read-modify-write instruction does in each form. -/

/-- The accumulator form fetches A into M and touches neither EA nor the oracle: it leaves what an Implied instruction leaves
(R162). -/
theorem impliedDone_eq_fetched {i : Instr} (hmode : i.mode = .acc) (n : Nat) (s : State) :
    impliedDone i n s = loadCyc n (fetched i .acc s) := by
  unfold impliedDone fetched entered Instr.length
  rw [hmode]
  rfl

/-- In memory form the result is written at EA (R214). -/
theorem writeBack_eq_busWrite {o : Operand} (ho : o ≠ .acc) (v : Byte) (s : State) : writeBack o v s = busWrite s.ea v s := by
  cases o
  case acc => exact absurd rfl ho
  all_goals rfl

@[simp] theorem fetched_ea (i : Instr) (o : Operand) (s : State) : (fetched i o s).ea = operandAddr i o s := loadOperand_ea o _

/-- The accumulator form writes A and P (R214). -/
theorem runModify_acc {i : Instr} (hw : i.wf = true) (hmode : i.mode = .acc) (f g : Byte → Byte → Byte) (s : State) :
    ∃ t, runModify i .acc f g s = .next t ∧ t = { impliedDone i t.cyc s with a := f s.p s.a, p := t.p } ∧
      t.p = g s.p s.a ∧ MemoryKept s t := by
  refine ⟨_, runModify_next hw .acc f g s, ?_, rfl, memoryKept_of rfl rfl⟩
  rw [impliedDone_eq_fetched hmode]
  rfl

/-- A memory form stores the result at the operand's address, and writes P (R214). -/
theorem runModify_memory {i : Instr} {o : Operand} (hw : i.wf = true) (ho : o ≠ .acc) (f g : Byte → Byte → Byte) (s : State) :
    ∃ t, runModify i o f g s = .next t ∧
      t = { operandDone i o t.cyc s with p := t.p, ram := t.ram, periphLog := t.periphLog } ∧
      t.p = g s.p (operandByte i o s) ∧
      StoredAt (operandAddr i o s) (f s.p (operandByte i o s)) (fetched i o s).periphLog s t := by
  have hnext := runModify_next hw o f g s
  rw [writeBack_eq_busWrite ho, fetched_ea] at hnext
  refine ⟨_, hnext, ?_, rfl, storedAt_of rfl (fetched_cart i o s) (fetched_ram i o s) rfl rfl⟩
  rw [operandDone_eq]
  rfl

/-! The four instructions. -/

/-- The status after a shift with result `f` that shifts out bit `k` of the operand (R214). -/
def shiftStatus (f : Byte → Byte → Byte) (k : Nat) (p v : Byte) : Byte := shiftFlags p (f p v) (v.getLsbD k)

theorem exec_asl_eq (o : Operand) (s : State) : exec (.asl o) s = runModify (.asl o) o aslResult (shiftStatus aslResult 7) s := rfl

theorem exec_lsr_eq (o : Operand) (s : State) : exec (.lsr o) s = runModify (.lsr o) o lsrResult (shiftStatus lsrResult 0) s := rfl

theorem exec_rol_eq (o : Operand) (s : State) : exec (.rol o) s = runModify (.rol o) o rolResult (shiftStatus rolResult 7) s := rfl

theorem exec_ror_eq (o : Operand) (s : State) : exec (.ror o) s = runModify (.ror o) o rorResult (shiftStatus rorResult 0) s := rfl

section
variable {i : Instr} {s : State} {f : Byte → Byte → Byte} {k : Nat} {r : Byte}

/-- A shift of the accumulator, whose result is `r`. -/
theorem shift_acc (hexec : exec i s = runModify i .acc f (shiftStatus f k) s) (hw : i.wf = true) (hmode : i.mode = .acc)
    (hr : f s.p s.a = r) :
    ∃ t, exec i s = .next t ∧ t = { impliedDone i t.cyc s with a := r, p := t.p } ∧
      CarryZeroNegativeFrom (s.a.getLsbD k) r s.p t.p ∧ MemoryKept s t := by
  subst hr
  obtain ⟨t, hnext, ht, hp, hkept⟩ := runModify_acc hw hmode f (shiftStatus f k) s
  exact ⟨t, hexec.trans hnext, ht, hp ▸ carryZeroNegativeFrom_shiftFlags _ _ _, hkept⟩

/-- A shift of a memory byte, whose result is `r`. -/
theorem shift_memory {o : Operand} (hexec : exec i s = runModify i o f (shiftStatus f k) s) (ho : o ≠ .acc)
    (hr : f s.p (operandByte i o s) = r) (hw : i.wf = true) :
    ∃ t, exec i s = .next t ∧ t = { operandDone i o t.cyc s with p := t.p, ram := t.ram, periphLog := t.periphLog } ∧
      CarryZeroNegativeFrom ((operandByte i o s).getLsbD k) r s.p t.p ∧
      StoredAt (operandAddr i o s) r (fetched i o s).periphLog s t := by
  subst hr
  obtain ⟨t, hnext, ht, hp, hstored⟩ := runModify_memory hw ho f (shiftStatus f k) s
  exact ⟨t, hexec.trans hnext, ht, hp ▸ carryZeroNegativeFrom_shiftFlags _ _ _, hstored⟩

end

end Sys2Proof.Machine
end

section
/-! PROOFS. The obligations of the shifts' and rotates' family (43_shifts_rotates.md). -/

namespace Sys2Proof.Proofs

open Sys2Proof Sys2Proof.Machine

/-- Settles O35: each is the accumulator form of one shift, at its arithmetic result. -/
theorem shiftsOfTheAccumulator : Obligations.ShiftsOfTheAccumulator := by
  unfold Obligations.ShiftsOfTheAccumulator
  intro s
  exact ⟨shift_acc (exec_asl_eq _ _) rfl rfl (aslResult_eq_ofNat _ _),
    shift_acc (exec_lsr_eq _ _) rfl rfl (lsrResult_eq_ofNat _ _),
    shift_acc (exec_rol_eq _ _) rfl rfl (rolResult_eq_ofNat _ _),
    shift_acc (exec_ror_eq _ _) rfl rfl (rorResult_eq_ofNat _ _)⟩

/-- Settles O36: each is the memory form of one shift, at its arithmetic result. -/
theorem shiftsOfMemory : Obligations.ShiftsOfMemory := by
  unfold Obligations.ShiftsOfMemory
  intro o s ho
  exact ⟨shift_memory (exec_asl_eq o s) ho (aslResult_eq_ofNat _ _),
    shift_memory (exec_lsr_eq o s) ho (lsrResult_eq_ofNat _ _),
    shift_memory (exec_rol_eq o s) ho (rolResult_eq_ofNat _ _),
    shift_memory (exec_ror_eq o s) ho (rorResult_eq_ofNat _ _)⟩

end Sys2Proof.Proofs
end

section
/-! PROOFS. The compares as one operation (R229), and the increments and decrements of a memory byte (R223, R224), of X and of Y
(R225 to R228). -/

namespace Sys2Proof.Machine

/-! Differences and steps by 1 modulo 2^8, as arithmetic. -/

theorem sub_eq_ofInt (a b : Byte) : a - b = BitVec.ofInt 8 ((a.toNat : Int) - b.toNat) := by
  apply BitVec.eq_of_toInt_eq
  rw [BitVec.toInt_sub, BitVec.toInt_ofInt, BitVec.toInt_eq_toNat_bmod, BitVec.toInt_eq_toNat_bmod, Int.bmod_sub_bmod,
    Int.sub_bmod_bmod]

theorem add_one_eq_ofNat (v : Byte) : v + 1 = BitVec.ofNat 8 (v.toNat + 1) := by
  rw [BitVec.ofNat_add, BitVec.ofNat_toNat, BitVec.setWidth_eq]
  rfl

/-- A decrement adds 255, which is -1 modulo 2^8. -/
theorem sub_one_eq_ofNat (v : Byte) : v - 1 = BitVec.ofNat 8 (v.toNat + 255) := by
  rw [BitVec.ofNat_add, BitVec.ofNat_toNat, BitVec.setWidth_eq]
  exact BitVec.sub_eq_add_neg v 1

/-! The compares. -/

/-- A compare writes Carry for `reg ≥ m`, and Zero and Negative from the difference, and nothing else (R229). -/
theorem carryZeroNegativeFrom_compareFlags (p reg m : Byte) :
    CarryZeroNegativeFrom (decide (m.toNat ≤ reg.toNat)) (reg - m) p (compareFlags p reg m) := by
  refine ⟨?_, ?_, ?_, flagsKept_compareFlags p reg m⟩
  · simp [compareFlags, getFlag_putFlag, BitVec.le_def]
  · simp [compareFlags, getFlag_putFlag]
  · simp [compareFlags, bit7]

/-- Zero is equality: the wrapped difference is 0 only then. -/
theorem getFlag_z_compareFlags (p reg m : Byte) : getFlag (compareFlags p reg m) .z = true ↔ reg = m := by
  obtain ⟨-, hz, -⟩ := carryZeroNegativeFrom_compareFlags p reg m
  rw [hz, decide_eq_true_iff]
  exact sub_eq_zero

/-- What CMP, CPX and CPY do with the operand in M, for the register that `reg` reads (R220 to R222). -/
def compareWith (reg : State → Byte) (s : State) : State := { s with p := compareFlags s.p (reg s) s.m }

theorem exec_cmp_eq (o : Operand) (s : State) : exec (.cmp o) s = runRead (.cmp o) o true (compareWith State.a) s := rfl

theorem exec_cpx_eq (o : Operand) (s : State) : exec (.cpx o) s = runRead (.cpx o) o false (compareWith State.x) s := rfl

theorem exec_cpy_eq (o : Operand) (s : State) : exec (.cpy o) s = runRead (.cpy o) o false (compareWith State.y) s := rfl

/-- Beside what every operand fetch leaves, a well-formed compare writes P alone, from the register as it stood. -/
theorem compare_register {i : Instr} {o : Operand} {xb : Bool} {reg : State → Byte} {s : State}
    (hexec : exec i s = runRead i o xb (compareWith reg) s) (hreg : reg (fetched i o s) = reg s) (hw : i.wf = true) :
    ∃ t, exec i s = .next t ∧ t = { operandDone i o t.cyc s with p := t.p } ∧
      CarryZeroNegativeFrom (decide ((operandByte i o s).toNat ≤ (reg s).toNat))
        (BitVec.ofInt 8 (((reg s).toNat : Int) - (operandByte i o s).toNat)) s.p t.p ∧
      (getFlag t.p .z = true ↔ reg s = operandByte i o s) ∧ MemoryKept s t := by
  rw [hexec, runRead_next hw, compareWith, hreg, fetched_p, fetched_m, ← sub_eq_ofInt]
  refine ⟨_, rfl, ?_, carryZeroNegativeFrom_compareFlags _ _ _, getFlag_z_compareFlags _ _ _,
    memoryKept_of (by simp) (by simp)⟩
  rw [operandDone_eq]
  rfl

/-! INC and DEC. -/

/-- The status byte after INC or DEC, whose result is `f` of the operand. -/
def resultStatus (f : Byte → Byte) (p v : Byte) : Byte := setZN p (f v)

theorem exec_inc_eq (o : Operand) (s : State) :
    exec (.inc o) s = runModify (.inc o) o (fun _ => (· + 1)) (resultStatus (· + 1)) s := rfl

theorem exec_dec_eq (o : Operand) (s : State) :
    exec (.dec o) s = runModify (.dec o) o (fun _ => (· - 1)) (resultStatus (· - 1)) s := rfl

/-- A memory form stores `f` of the operand, and sets Zero and Negative from what it stores. -/
theorem change_memory {i : Instr} {o : Operand} {f : Byte → Byte} {s : State}
    (hexec : exec i s = runModify i o (fun _ => f) (resultStatus f) s) (ho : o ≠ .acc) (hw : i.wf = true) :
    ∃ t, exec i s = .next t ∧
      t = { operandDone i o t.cyc s with p := t.p, ram := t.ram, periphLog := t.periphLog } ∧
      ZeroNegativeFrom (f (operandByte i o s)) s.p t.p ∧
      StoredAt (operandAddr i o s) (f (operandByte i o s)) (fetched i o s).periphLog s t := by
  obtain ⟨t, hnext, ht, hp, hstored⟩ := runModify_memory hw ho (fun _ => f) (resultStatus f) s
  exact ⟨t, hexec.trans hnext, ht, hp ▸ zeroNegativeFrom_setZN _ _, hstored⟩

/-- An instruction without an accumulator form, such as INC and DEC (R223, R224), has no such operand. -/
theorem operand_ne_acc_of_wf {i : Operand → Instr} {o : Operand} (hacc : (i .acc).wf = false) (hw : (i o).wf = true) :
    o ≠ .acc := by
  rintro rfl
  rw [hacc] at hw
  cases hw

/-! INX, INY, DEX and DEY. -/

/-- What INX and DEX do: X takes `f` of itself (R225, R227). -/
def changeX (f : Byte → Byte) (s : State) : State := { s with x := f s.x, p := setZN s.p (f s.x) }

/-- What INY and DEY do: Y takes `f` of itself (R226, R228). -/
def changeY (f : Byte → Byte) (s : State) : State := { s with y := f s.y, p := setZN s.p (f s.y) }

theorem exec_inx_eq (s : State) : exec .inx s = runImplied .inx (changeX (· + 1)) s := rfl

theorem exec_iny_eq (s : State) : exec .iny s = runImplied .iny (changeY (· + 1)) s := rfl

theorem exec_dex_eq (s : State) : exec .dex s = runImplied .dex (changeX (· - 1)) s := rfl

theorem exec_dey_eq (s : State) : exec .dey s = runImplied .dey (changeY (· - 1)) s := rfl

section
variable {i : Instr} (hw : i.wf = true) (hmode : i.mode = .imp) (f : Byte → Byte) (s : State)
include hw hmode

theorem runImplied_changeX :
    ∃ t, runImplied i (changeX f) s = .next t ∧ t = { impliedDone i t.cyc s with x := f s.x, p := t.p } ∧
      ZeroNegativeFrom (f s.x) s.p t.p ∧ MemoryKept s t := by
  refine ⟨_, runImplied_next hw _ s, ?_, zeroNegativeFrom_setZN _ _, memoryKept_of rfl rfl⟩
  rw [impliedDone_eq hmode]
  rfl

theorem runImplied_changeY :
    ∃ t, runImplied i (changeY f) s = .next t ∧ t = { impliedDone i t.cyc s with y := f s.y, p := t.p } ∧
      ZeroNegativeFrom (f s.y) s.p t.p ∧ MemoryKept s t := by
  refine ⟨_, runImplied_next hw _ s, ?_, zeroNegativeFrom_setZN _ _, memoryKept_of rfl rfl⟩
  rw [impliedDone_eq hmode]
  rfl

end

end Sys2Proof.Machine
end

section
/-! PROOFS. The obligations of the compares', increments' and decrements' family (44_compare_incdec.md). -/

namespace Sys2Proof.Proofs

open Sys2Proof Sys2Proof.Machine

/-- Settles O37: the three compares are one operation, at three registers that the operand's fetch keeps. -/
theorem compareIsUnsigned : Obligations.CompareIsUnsigned := by
  unfold Obligations.CompareIsUnsigned
  intro o s
  exact ⟨compare_register (exec_cmp_eq o s) (fetched_a _ o s), compare_register (exec_cpx_eq o s) (fetched_x _ o s),
    compare_register (exec_cpy_eq o s) (fetched_y _ o s)⟩

/-- Settles O38: each stores its step of the operand, from which it sets Zero and Negative. -/
theorem incrementAndDecrementMemory : Obligations.IncrementAndDecrementMemory := by
  unfold Obligations.IncrementAndDecrementMemory
  intro o s
  rw [← add_one_eq_ofNat, ← sub_one_eq_ofNat]
  exact ⟨fun hw => change_memory (exec_inc_eq o s) (operand_ne_acc_of_wf rfl hw) hw,
    fun hw => change_memory (exec_dec_eq o s) (operand_ne_acc_of_wf rfl hw) hw⟩

/-- Settles O39: each is an Implied instruction that writes one register, and Zero and Negative from its new value. -/
theorem incrementAndDecrementRegisters : Obligations.IncrementAndDecrementRegisters := by
  unfold Obligations.IncrementAndDecrementRegisters
  intro s
  rw [exec_inx_eq, exec_iny_eq, exec_dex_eq, exec_dey_eq]
  rw [← add_one_eq_ofNat s.x, ← add_one_eq_ofNat s.y, ← sub_one_eq_ofNat s.x, ← sub_one_eq_ofNat s.y]
  exact ⟨runImplied_changeX rfl rfl _ s, runImplied_changeY rfl rfl _ s, runImplied_changeX rfl rfl _ s,
    runImplied_changeY rfl rfl _ s⟩

end Sys2Proof.Proofs
end

section
/-! PROOFS. The eight branches (R240 to R248): what one answers, given the flag it tests. -/

namespace Sys2Proof.Machine

/-! Which bit of the status byte each branch tests, and for which value. -/

theorem exec_bcc_eq (rel8 : Byte) (s : State) :
    exec (.bcc rel8) s = runBranch (.bcc rel8) rel8 (fun p => !p.getLsbD 0) s := rfl

theorem exec_bcs_eq (rel8 : Byte) (s : State) :
    exec (.bcs rel8) s = runBranch (.bcs rel8) rel8 (fun p => p.getLsbD 0) s := rfl

theorem exec_bne_eq (rel8 : Byte) (s : State) :
    exec (.bne rel8) s = runBranch (.bne rel8) rel8 (fun p => !p.getLsbD 1) s := rfl

theorem exec_beq_eq (rel8 : Byte) (s : State) :
    exec (.beq rel8) s = runBranch (.beq rel8) rel8 (fun p => p.getLsbD 1) s := rfl

theorem exec_bpl_eq (rel8 : Byte) (s : State) :
    exec (.bpl rel8) s = runBranch (.bpl rel8) rel8 (fun p => !p.getLsbD 7) s := rfl

theorem exec_bmi_eq (rel8 : Byte) (s : State) :
    exec (.bmi rel8) s = runBranch (.bmi rel8) rel8 (fun p => p.getLsbD 7) s := rfl

theorem exec_bvc_eq (rel8 : Byte) (s : State) :
    exec (.bvc rel8) s = runBranch (.bvc rel8) rel8 (fun p => !p.getLsbD 6) s := rfl

theorem exec_bvs_eq (rel8 : Byte) (s : State) :
    exec (.bvs rel8) s = runBranch (.bvs rel8) rel8 (fun p => p.getLsbD 6) s := rfl

/-! What they have in common. -/

/-- The length of a branch: the opcode byte and the offset byte (R124, R166). -/
theorem length_of_mode_rel {i : Instr} (hmode : i.mode = .rel) : i.length = 2 := by rw [Instr.length, hmode]; rfl

/-- Beside IR and CYC a well-formed branch writes REL, PC and, when it is taken, EA; its condition is asked of the status byte
of the state it starts in. -/
theorem branch_registers {i : Instr} {rel8 : Byte} {cond : Byte → Bool} {s : State}
    (hexec : exec i s = runBranch i rel8 cond s) (hw : i.wf = true) (hmode : i.mode = .rel) :
    ∃ t, exec i s = .next t ∧
      t = { s with
        ir := i.opcode?.getD 0
        rel := BitVec.ofInt 16 rel8.toInt
        ea := if cond s.p then branchGoal rel8 s else s.ea
        pc := if cond s.p then branchGoal rel8 s else s.pc + 2
        cyc := t.cyc } ∧ MemoryKept s t := by
  have hlength : i.length = 2 := length_of_mode_rel hmode
  refine ⟨_, hexec.trans (runBranch_next hw rel8 cond s), ?_, memoryKept_of rfl rfl⟩
  rw [branchTarget_entered hlength, entered_pc, hlength]
  rfl

end Sys2Proof.Machine
end

section
/-! PROOFS. The obligation of the branches' family (45_branches.md). -/

namespace Sys2Proof.Proofs

open Sys2Proof Sys2Proof.Machine

/-- Settles O40: the eight branches are one operation, under eight conditions on one status bit each. -/
theorem branchesFollowTheirFlag : Obligations.BranchesFollowTheirFlag := by
  unfold Obligations.BranchesFollowTheirFlag
  intro rel8 s
  exact ⟨branch_registers (exec_bcc_eq rel8 s) rfl rfl, branch_registers (exec_bcs_eq rel8 s) rfl rfl,
    branch_registers (exec_bne_eq rel8 s) rfl rfl, branch_registers (exec_beq_eq rel8 s) rfl rfl,
    branch_registers (exec_bpl_eq rel8 s) rfl rfl, branch_registers (exec_bmi_eq rel8 s) rfl rfl,
    branch_registers (exec_bvc_eq rel8 s) rfl rfl, branch_registers (exec_bvs_eq rel8 s) rfl rfl⟩

end Sys2Proof.Proofs
end

section
/-! PROOFS. The stack as the bytes of page 0x01 (R11, R23): what pushes store and keep, what pulls in a row find. -/

namespace Sys2Proof.Machine

/-! Pushes. -/

theorem stackByte_of_ram_eq {s t : State} (hram : t.ram = s.ram) (sp : Byte) : stackByte t sp = stackByte s sp := by
  unfold stackByte
  rw [hram]

/-- A push stores the one stack byte that SP names. -/
theorem stackByte_push {s : State} (hwf : s.ram.wf = true) (v sp : Byte) :
    stackByte (push v s) sp = if sp = s.sp then v else stackByte s sp := by
  have hindex : 0x100 + sp.toNat = 0x100 + s.sp.toNat ↔ sp = s.sp := by rw [Nat.add_left_cancel_iff, BitVec.toNat_inj]
  unfold stackByte
  rw [push_ram_eq, Memory.read_write hwf]
  simp only [hindex]

theorem push_ram_wf {s : State} (hwf : s.ram.wf = true) (v : Byte) : (push v s).ram.wf = true := busWrite_ram_wf hwf

/-- And it keeps every other byte of memory. -/
theorem memoryKeptBut_push (v : Byte) {s : State} {sp : Byte} (hsp : s.sp = sp) :
    MemoryKeptBut (stackAddr sp) s (push v s) := by
  subst hsp
  exact memoryKeptBut_of (u := s) rfl rfl rfl

/-- Two bytes were pushed from stack pointer `s.sp` down, and no other byte of memory changed (R11, R266). -/
def PushedTwo (first second : Byte) (s t : State) : Prop :=
  stackByte t s.sp = first ∧ stackByte t (s.sp - 1) = second ∧
  ∀ addr, inWindow addr = false → ¬ sameRamByte (stackAddr s.sp) addr → ¬ sameRamByte (stackAddr (s.sp - 1)) addr →
    busValue addr t = busValue addr s

section
variable {s t : State} {first second third : Byte} (hwf : s.ram.wf = true)
include hwf

/-- Two pushes are two pushed bytes: the second lies below the first. -/
theorem pushedTwo_of (hram : t.ram = (push second (push first s)).ram) (hcart : t.cart = s.cart) :
    PushedTwo first second s t := by
  have hwf' := push_ram_wf hwf first
  have hsp : (push first s).sp = s.sp - 1 := push_sp first s
  refine ⟨?_, ?_, fun addr hw h1 h2 => ?_⟩
  · rw [stackByte_of_ram_eq hram, stackByte_push hwf', if_neg (by rw [hsp]; bv_omega), stackByte_push hwf, if_pos rfl]
  · rw [stackByte_of_ram_eq hram, stackByte_push hwf', if_pos hsp.symm]
  · rw [memoryKept_of hram hcart addr hw, memoryKeptBut_push second hsp addr hw h2, memoryKeptBut_push first rfl addr hw h1]

/-- A third push, below the two, makes them three. -/
theorem pushedThree_of (hram : t.ram = (push third (push second (push first s))).ram) (hcart : t.cart = s.cart) :
    PushedThree first second third s t := by
  obtain ⟨hfirst, hsecond, hkept⟩ := pushedTwo_of (t := push second (push first s)) hwf rfl rfl
  have hwf' := push_ram_wf (push_ram_wf hwf first) second
  have hsp : (push second (push first s)).sp = s.sp - 2 := by rw [push_sp, push_sp]; bv_omega
  refine ⟨?_, ?_, ?_, fun addr hw h1 h2 h3 => ?_⟩
  · rw [stackByte_of_ram_eq hram, stackByte_push hwf', if_neg (by rw [hsp]; bv_omega), hfirst]
  · rw [stackByte_of_ram_eq hram, stackByte_push hwf', if_neg (by rw [hsp]; bv_omega), hsecond]
  · rw [stackByte_of_ram_eq hram, stackByte_push hwf', if_pos hsp.symm]
  · rw [memoryKept_of hram hcart addr hw, memoryKeptBut_push third hsp addr hw h3, hkept addr hw h1 h2]

end

/-! Pulls: a pull changes SP alone, so each of several in a row reads the RAM of the first. -/

theorem afterPull_afterPull_eq (s : State) : afterPull (afterPull s) = { s with sp := s.sp + 2 } := by
  have hsp : s.sp + 1 + 1 = s.sp + 2 := by bv_omega
  rw [afterPull_eq, afterPull_sp, hsp, afterPull_eq]

theorem afterPull_afterPull_afterPull_eq (s : State) : afterPull (afterPull (afterPull s)) = { s with sp := s.sp + 3 } := by
  have hsp : s.sp + 1 + 2 = s.sp + 3 := by bv_omega
  rw [afterPull_afterPull_eq, afterPull_sp, hsp, afterPull_eq]

theorem pullValue_eq_stackByte (s : State) : pullValue s = stackByte s (s.sp + 1) := pullValue_eq s

theorem pullValue_afterPull (s : State) : pullValue (afterPull s) = stackByte s (s.sp + 2) := by
  have hsp : s.sp + 1 + 1 = s.sp + 2 := by bv_omega
  rw [pullValue_eq_stackByte, afterPull_sp, hsp]
  exact stackByte_of_ram_eq (afterPull_ram s) _

theorem pullValue_afterPull_afterPull (s : State) : pullValue (afterPull (afterPull s)) = stackByte s (s.sp + 3) := by
  have hsp : s.sp + 2 + 1 = s.sp + 3 := by bv_omega
  rw [pullValue_eq_stackByte, afterPull_afterPull_eq, hsp]
  exact stackByte_of_ram_eq rfl _

end Sys2Proof.Machine
end

section
/-! PROOFS. What BRK, the stack instructions, the jumps, JSR, RTS and RTI do (R260 to R268), each as one update of the state. -/

namespace Sys2Proof.Machine

/-! BRK and RTI. -/

theorem exec_brk_eq (s : State) : exec .brk s = runImplied .brk softwareInterrupt s := rfl

theorem exec_rti_eq (s : State) : exec .rti s = runImplied .rti returnFromInterrupt s := rfl

theorem softwareInterrupt_eq (s : State) :
    softwareInterrupt s = { s with
      sp := s.sp - 3
      p := (s.p &&& 0xEF#8) ||| 0x04#8
      pc := vectorWord s 0xFFFE
      ram := (push (s.p ||| 0x30#8) (push (s.pc + 1).low (push (s.pc + 1).high s))).ram } := by
  have hsp : s.sp - 1 - 1 - 1 = s.sp - 3 := by bv_omega
  unfold softwareInterrupt irqVector
  rw [takeException_eq _ _ _ (by decide) (by decide), push_eq, push_eq, push_eq]
  simp only [hsp]
  rfl

theorem returnFromInterrupt_eq (s : State) :
    returnFromInterrupt s = { s with
      sp := s.sp + 3
      p := (stackByte s (s.sp + 1) &&& 0xEF#8) ||| 0x20#8
      pc := Addr.ofBytes (stackByte s (s.sp + 2)) (stackByte s (s.sp + 3)) } := by
  simp only [returnFromInterrupt]
  rw [pullValue_eq_stackByte, pullValue_afterPull, pullValue_afterPull_afterPull, afterPull_afterPull_afterPull_eq]
  rfl

/-! PHA and PHP, PLA and PLP. -/

/-- What PHA and PHP do, for the byte that `v` reads (R261, R262). -/
def pushOf (v : State → Byte) (s : State) : State := push (v s) s

/-- What PLA does (R263). -/
def pullA (s : State) : State := { afterPull s with a := pullValue s, p := setZN s.p (pullValue s) }

/-- What PLP does (R264). -/
def pullStatus (s : State) : State := { afterPull s with p := pullValue s ||| 0x20#8 }

theorem exec_pha_eq (s : State) : exec .pha s = runImplied .pha (pushOf State.a) s := rfl

theorem exec_php_eq (s : State) : exec .php s = runImplied .php (pushOf fun s => s.p ||| 0x30#8) s := rfl

theorem exec_pla_eq (s : State) : exec .pla s = runImplied .pla pullA s := rfl

theorem exec_plp_eq (s : State) : exec .plp s = runImplied .plp pullStatus s := rfl

theorem pullA_eq (s : State) :
    pullA s = { s with
      a := stackByte s (s.sp + 1), sp := s.sp + 1, p := setZN s.p (stackByte s (s.sp + 1)) } := by
  unfold pullA
  rw [pullValue_eq_stackByte, afterPull_eq]

theorem pullStatus_eq (s : State) :
    pullStatus s = { s with sp := s.sp + 1, p := stackByte s (s.sp + 1) ||| 0x20#8 } := by
  unfold pullStatus
  rw [pullValue_eq_stackByte, afterPull_eq]

/-! JMP, and the page of its pointer (R170). -/

/-- What JMP does (R265). -/
def jump (o : Operand) (s : State) : State := { resolve o s with pc := effectiveAddress o s }

theorem exec_jmp_eq (o : Operand) (s : State) : exec (.jmp o) s = runInstr (.jmp o) (fun _ => 0) (jump o) s := rfl

theorem jump_abs_eq (a : Addr) (s : State) : jump (.abs a) s = { s with ea := a, pc := a } := rfl

theorem jump_ind_eq (a : Addr) (s : State) :
    jump (.ind a) s = { afterRead (indirectHigh a) (afterRead a s) with
      ea := Addr.ofBytes (busValue a s) (busValue (indirectHigh a) (afterRead a s))
      pc := Addr.ofBytes (busValue a s) (busValue (indirectHigh a) (afterRead a s)) } := rfl

theorem low_eq_0xFF_iff (a : Addr) : a.low = 0xFF#8 ↔ a.toNat % 256 = 255 := by
  rw [← BitVec.toNat_inj]
  simp [Addr.low]

/-- The mask of R170 leads from the last byte of a page to its first, 255 below. -/
theorem and_0xFF00_of_low {a : Addr} (h : a.low = 0xFF#8) : a &&& 0xFF00#16 = a - 255 := by
  rw [← Addr.ofBytes_low_high a, h]
  exact forall_byte (P := fun hi => Addr.ofBytes 0xFF#8 hi &&& 0xFF00#16 = Addr.ofBytes 0xFF#8 hi - 255)
    (by decide +kernel) a.high

theorem indirectHigh_eq (a : Addr) : indirectHigh a = if a.toNat % 256 = 255 then a - 255 else a + 1 := by
  unfold indirectHigh
  simp only [← low_eq_0xFF_iff]
  split
  · next h => exact and_0xFF00_of_low h
  · rfl

/-! JSR and RTS. -/

/-- What JSR does, with PC past its bytes (R266). -/
def callSubroutine (target : Addr) (s : State) : State :=
  { push (s.pc - 1).low (push (s.pc - 1).high { s with ea := target }) with pc := target }

/-- What RTS does (R267). -/
def returnFromSubroutine (s : State) : State :=
  { afterPull (afterPull s) with pc := Addr.ofBytes (pullValue s) (pullValue (afterPull s)) + 1 }

theorem exec_jsr_eq (target : Addr) (s : State) :
    exec (.jsr target) s = runInstr (.jsr target) (fun _ => 0) (callSubroutine target) s := rfl

theorem exec_rts_eq (s : State) : exec .rts s = runImplied .rts returnFromSubroutine s := rfl

theorem callSubroutine_eq (target : Addr) (s : State) :
    callSubroutine target s = { s with
      ea := target
      sp := s.sp - 2
      pc := target
      ram := (push (s.pc - 1).low (push (s.pc - 1).high s)).ram } := by
  have hsp : s.sp - 1 - 1 = s.sp - 2 := by bv_omega
  unfold callSubroutine
  simp only [push_eq, hsp]

theorem returnFromSubroutine_eq (s : State) :
    returnFromSubroutine s = { s with
      sp := s.sp + 2
      pc := Addr.ofBytes (stackByte s (s.sp + 1)) (stackByte s (s.sp + 2)) + 1 } := by
  unfold returnFromSubroutine
  rw [pullValue_eq_stackByte, pullValue_afterPull, afterPull_afterPull_eq]

/-! What an instruction of either shape answers. -/

/-- A well-formed Implied instruction answers its operation on what every such instruction leaves. -/
theorem exec_next_of_runImplied {i : Instr} {op : State → State} {s : State} (hexec : exec i s = runImplied i op s)
    (hw : i.wf = true) (hmode : i.mode = .imp) : ∃ n, exec i s = .next (loadCyc n (op (impliedDone i s.cyc s))) := by
  rw [hexec, impliedDone_eq hmode]
  exact ⟨_, runImplied_next hw op s⟩

/-- A well-formed instruction that adds nothing to its base count answers its body. -/
theorem exec_next_of_runInstr {i : Instr} {body : State → State} {s : State}
    (hexec : exec i s = runInstr i (fun _ => 0) body s) (hw : i.wf = true) :
    ∃ n, exec i s = .next (loadCyc n (body (entered i s))) :=
  ⟨_, hexec.trans (runInstr_next hw _ body s)⟩

/-- A pushing instruction stores its byte at the address that SP names, and moves SP (R261, R262). -/
theorem push_stored {i : Instr} {v : State → Byte} {s : State} (hexec : exec i s = runImplied i (pushOf v) s)
    (hw : i.wf = true) (hmode : i.mode = .imp) :
    ∃ t, exec i s = .next t ∧ t = { impliedDone i t.cyc s with sp := s.sp - 1, ram := t.ram } ∧
      StoredAt (stackAddr s.sp) (v (impliedDone i s.cyc s)) s.periphLog s t := by
  obtain ⟨n, hnext⟩ := exec_next_of_runImplied hexec hw hmode
  refine ⟨_, hnext, ?_, storedAt_of (u := impliedDone i s.cyc s) rfl rfl rfl rfl rfl⟩
  rw [pushOf, push_eq]
  rfl

end Sys2Proof.Machine
end

section
/-! PROOFS. The obligations of the family of BRK, the stack instructions and the jumps (46_brk_stack_jumps.md). -/

namespace Sys2Proof.Proofs

open Sys2Proof Sys2Proof.Machine

/-- Settles O26: BRK is an exception entry, with PC one past the opcode byte when it adds 1 to it. -/
theorem brkEntry : Obligations.BrkEntry := by
  unfold Obligations.BrkEntry
  intro s hwf
  have hpc : (impliedDone .brk s.cyc s).pc + 1 = s.pc + 2 := show s.pc + 1 + 1 = s.pc + 2 by bv_omega
  obtain ⟨n, hnext⟩ := exec_next_of_runImplied (exec_brk_eq s) rfl rfl
  rw [softwareInterrupt_eq, hpc] at hnext
  refine ⟨_, hnext, rfl, pushedThree_of hwf ?_ rfl⟩
  simp only [loadCyc_ram, push_ram_eq, push_sp]
  rfl

/-- Settles O27: three pulls in a row. -/
theorem rtiPullsStatusAndPc : Obligations.RtiPullsStatusAndPc := by
  unfold Obligations.RtiPullsStatusAndPc
  intro s
  obtain ⟨n, hnext⟩ := exec_next_of_runImplied (exec_rti_eq s) rfl rfl
  rw [returnFromInterrupt_eq] at hnext
  exact ⟨_, hnext, rfl, memoryKept_of rfl rfl⟩

/-- Settles O41: both are one push, of two bytes that the entry into the instruction keeps. -/
theorem pushInstructions : Obligations.PushInstructions := by
  unfold Obligations.PushInstructions
  intro s
  exact ⟨push_stored (exec_pha_eq s) rfl rfl, push_stored (exec_php_eq s) rfl rfl⟩

/-- Settles O42: a pull reads the stack byte above SP and moves SP, and nothing else. -/
theorem pullInstructions : Obligations.PullInstructions := by
  unfold Obligations.PullInstructions
  intro s
  obtain ⟨n, hpla⟩ := exec_next_of_runImplied (exec_pla_eq s) rfl rfl
  obtain ⟨n', hplp⟩ := exec_next_of_runImplied (exec_plp_eq s) rfl rfl
  rw [pullA_eq] at hpla
  rw [pullStatus_eq] at hplp
  exact ⟨⟨_, hpla, rfl, zeroNegativeFrom_setZN _ _, memoryKept_of rfl rfl⟩, ⟨_, hplp, rfl, memoryKept_of rfl rfl⟩⟩

/-- Settles O43: a jump takes what its operand resolves to, and a pointer outside the window is read without a trace. -/
theorem jumps : Obligations.Jumps := by
  unfold Obligations.Jumps
  intro a s
  rw [← indirectHigh_eq a]
  intro next
  obtain ⟨n, habs⟩ := exec_next_of_runInstr (exec_jmp_eq (.abs a) s) rfl
  obtain ⟨n', hind⟩ := exec_next_of_runInstr (exec_jmp_eq (.ind a) s) rfl
  rw [jump_abs_eq] at habs
  rw [jump_ind_eq] at hind
  refine ⟨⟨_, habs, rfl, memoryKept_of rfl rfl⟩, _, hind, rfl, fun ha hnext => ?_, memoryKept_of rfl rfl⟩
  rw [afterRead_of_not_inWindow ha, afterRead_of_not_inWindow hnext]
  rfl

/-- Settles O44: JSR pushes two bytes, with PC three past its address when it takes 1 from it; RTS pulls two. -/
theorem callAndReturn : Obligations.CallAndReturn := by
  unfold Obligations.CallAndReturn
  refine ⟨fun target s hwf => ?_, fun s => ?_⟩
  · have hpc : (entered (.jsr target) s).pc - 1 = s.pc + 2 := show s.pc + 3 - 1 = s.pc + 2 by bv_omega
    obtain ⟨n, hnext⟩ := exec_next_of_runInstr (exec_jsr_eq target s) rfl
    rw [callSubroutine_eq, hpc] at hnext
    refine ⟨_, hnext, rfl, pushedTwo_of hwf ?_ rfl⟩
    simp only [loadCyc_ram, push_ram_eq, push_sp, entered_ram, entered_sp]
  · obtain ⟨n, hnext⟩ := exec_next_of_runImplied (exec_rts_eq s) rfl rfl
    rw [returnFromSubroutine_eq] at hnext
    exact ⟨_, hnext, rfl, memoryKept_of rfl rfl⟩

/-- Settles O45: RTS pulls the two bytes that JSR pushed, which are the word before the address behind the JSR. -/
theorem rtsReturnsAfterTheJsr : Obligations.RtsReturnsAfterTheJsr := by
  unfold Obligations.RtsReturnsAfterTheJsr
  intro target s t u hwf hjsr husp hkept
  obtain ⟨jsrPushes, rtsPulls⟩ := callAndReturn
  obtain ⟨t', hnext, ht, hhigh, hlow, -⟩ := jsrPushes target s hwf
  cases hjsr.symm.trans hnext
  have hsp : t.sp = s.sp - 2 := congrArg State.sp ht
  have hsp1 : t.sp + 1 = s.sp - 1 := by rw [hsp]; bv_omega
  have hsp2 : t.sp + 2 = s.sp := by rw [hsp]; bv_omega
  have hlow' : stackByte u (u.sp + 1) = (s.pc + 2).low := by
    rw [husp, ← hlow, ← hsp1]
    exact hkept 1 (by decide) (by decide)
  have hhigh' : stackByte u (u.sp + 2) = (s.pc + 2).high := by
    rw [husp, ← hhigh, ← hsp2]
    exact hkept 2 (by decide) (by decide)
  obtain ⟨v, hrts, hv, -⟩ := rtsPulls u
  rw [hlow', hhigh', Addr.ofBytes_low_high] at hv
  refine ⟨v, hrts, ?_, ?_⟩
  · calc v.pc = s.pc + 2 + 1 := congrArg State.pc hv
      _ = s.pc + 3 := by bv_omega
  · calc v.sp = u.sp + 2 := congrArg State.sp hv
      _ = s.sp := by rw [husp, hsp2]

end Sys2Proof.Proofs
end

section
/-! PROOFS. Loads and transfers as one operation, which moves a byte into a register (R280 to R282, R286 to R290), TXS (R291), and
the stores (R283 to R285). -/

namespace Sys2Proof.Machine

/-! A byte moved into a register, with Zero and Negative from it. -/

/-- The registers that a load or a flag-setting transfer writes. -/
inductive Destination where
  | a | x | y

/-- The state with a byte put into a register. -/
def Destination.put : Destination → Byte → State → State
  | .a, v, s => { s with a := v }
  | .x, v, s => { s with x := v }
  | .y, v, s => { s with y := v }

@[simp] theorem Destination.put_ram (d : Destination) (v : Byte) (s : State) : (d.put v s).ram = s.ram := by cases d <;> rfl
@[simp] theorem Destination.put_cart (d : Destination) (v : Byte) (s : State) : (d.put v s).cart = s.cart := by cases d <;> rfl

/-- What a load does with the operand in M, and a transfer with its source register: `d` takes the byte that `src` reads. -/
def moveInto (d : Destination) (src : State → Byte) (s : State) : State :=
  { d.put (src s) s with p := setZN s.p (src s) }

theorem exec_lda_eq (o : Operand) (s : State) : exec (.lda o) s = runRead (.lda o) o true (moveInto .a State.m) s := rfl

theorem exec_ldx_eq (o : Operand) (s : State) : exec (.ldx o) s = runRead (.ldx o) o true (moveInto .x State.m) s := rfl

theorem exec_ldy_eq (o : Operand) (s : State) : exec (.ldy o) s = runRead (.ldy o) o true (moveInto .y State.m) s := rfl

theorem exec_tax_eq (s : State) : exec .tax s = runImplied .tax (moveInto .x State.a) s := rfl

theorem exec_tay_eq (s : State) : exec .tay s = runImplied .tay (moveInto .y State.a) s := rfl

theorem exec_txa_eq (s : State) : exec .txa s = runImplied .txa (moveInto .a State.x) s := rfl

theorem exec_tya_eq (s : State) : exec .tya s = runImplied .tya (moveInto .a State.y) s := rfl

theorem exec_tsx_eq (s : State) : exec .tsx s = runImplied .tsx (moveInto .x State.sp) s := rfl

/-- Beside what every operand fetch leaves, a well-formed load puts the operand into its register, and writes Zero and Negative
from it. -/
theorem load_register {i : Instr} {o : Operand} {d : Destination} {s : State}
    (hexec : exec i s = runRead i o true (moveInto d State.m) s) (hw : i.wf = true) :
    ∃ t, exec i s = .next t ∧ t = { d.put (operandByte i o s) (operandDone i o t.cyc s) with p := t.p } ∧
      ZeroNegativeFrom (operandByte i o s) s.p t.p ∧ MemoryKept s t := by
  rw [hexec, runRead_next hw, moveInto, fetched_m, fetched_p]
  refine ⟨_, rfl, ?_, zeroNegativeFrom_setZN _ _, memoryKept_of (by simp) (by simp)⟩
  rw [operandDone_eq]
  cases d <;> rfl

/-- Beside what every Implied instruction leaves, a transfer puts its source register, which that leaves as it was, into its
destination, and writes Zero and Negative from it. -/
theorem transfer_register {i : Instr} {d : Destination} {src : State → Byte} {s : State}
    (hexec : exec i s = runImplied i (moveInto d src) s) (hw : i.wf = true) (hmode : i.mode = .imp)
    (hsrc : src (impliedDone i s.cyc s) = src s) :
    ∃ t, exec i s = .next t ∧ t = { d.put (src s) (impliedDone i t.cyc s) with p := t.p } ∧
      ZeroNegativeFrom (src s) s.p t.p ∧ MemoryKept s t := by
  obtain ⟨n, hnext⟩ := exec_next_of_runImplied hexec hw hmode
  rw [moveInto, hsrc] at hnext
  exact ⟨_, hnext, by cases d <;> rfl, zeroNegativeFrom_setZN _ _, memoryKept_of (d.put_ram _ _) (d.put_cart _ _)⟩

/-! TXS. -/

/-- What TXS does (R291). -/
def moveXToStackPointer (s : State) : State := { s with sp := s.x }

theorem exec_txs_eq (s : State) : exec .txs s = runImplied .txs moveXToStackPointer s := rfl

/-! The stores. -/

theorem exec_sta_eq (o : Operand) (s : State) : exec (.sta o) s = runStore (.sta o) o State.a s := rfl

theorem exec_stx_eq (o : Operand) (s : State) : exec (.stx o) s = runStore (.stx o) o State.x s := rfl

theorem exec_sty_eq (o : Operand) (s : State) : exec (.sty o) s = runStore (.sty o) o State.y s := rfl

/-- No store has the accumulator form, which writes M, or the indirect one, which may read its pointer in the window. -/
theorem store_operand_mode {i : Instr} {o : Operand} (hw : i.wf = true) (hmode : i.mode = o.mode)
    (hop : i.op ∈ [.sta, .stx, .sty]) : o.mode ∉ [.acc, .ind] := by
  have hmodes : o.mode ∈ i.op.modes := by
    simp only [Instr.wf, Bool.and_eq_true, List.contains_iff_mem] at hw
    exact hmode ▸ hw.1
  simp only [List.mem_cons, List.not_mem_nil, or_false] at hop ⊢
  rintro (h | h) <;> rcases hop with hop | hop | hop <;> simp [h, hop, Op.modes] at hmodes

/-- Resolving the operand of an instruction without those two forms leaves what `addressDone` says. -/
theorem resolve_entered_eq {o : Operand} (h : o.mode ∉ [.acc, .ind]) (i : Instr) (s : State) :
    resolve o (entered i s) = addressDone i o s.cyc s := by
  rw [resolve_eq_of_mode h]
  rfl

/-- Beside what resolving the address leaves, a well-formed store writes the register that `reg` reads, which that leaves as it
was, at the address. -/
theorem store_register {i : Instr} {o : Operand} {reg : State → Byte} {s : State}
    (hexec : exec i s = runStore i o reg s) (hmode : i.mode = o.mode) (hop : i.op ∈ [.sta, .stx, .sty])
    (hreg : reg (addressDone i o s.cyc s) = reg s) (hw : i.wf = true) :
    ∃ t, exec i s = .next t ∧ t = { addressDone i o t.cyc s with ram := t.ram, periphLog := t.periphLog } ∧
      StoredAt (operandAddr i o s) (reg s) s.periphLog s t := by
  rw [hexec, runStore_next hw, resolve_entered_eq (store_operand_mode hw hmode hop), hreg]
  exact ⟨_, rfl, rfl, storedAt_of (u := addressDone i o s.cyc s) rfl rfl rfl rfl rfl⟩

end Sys2Proof.Machine
end

section
/-! PROOFS. The obligations of the loads', stores' and transfers' family (47_load_store_transfer.md). -/

namespace Sys2Proof.Proofs

open Sys2Proof Sys2Proof.Machine

/-- Settles O46: the three loads are one move of the operand, into three registers. -/
theorem loads : Obligations.Loads := by
  unfold Obligations.Loads
  intro o s
  exact ⟨load_register (exec_lda_eq o s), load_register (exec_ldx_eq o s), load_register (exec_ldy_eq o s)⟩

/-- Settles O47: the three stores are one bus write at the operand's address, of three registers. -/
theorem stores : Obligations.Stores := by
  unfold Obligations.Stores
  intro o s
  exact ⟨store_register (exec_sta_eq o s) rfl (by simp [Instr.op]) rfl,
    store_register (exec_stx_eq o s) rfl (by simp [Instr.op]) rfl,
    store_register (exec_sty_eq o s) rfl (by simp [Instr.op]) rfl⟩

/-- Settles O48: five transfers are one move of a register that the entry into the instruction keeps; TXS writes SP alone. -/
theorem transfers : Obligations.Transfers := by
  unfold Obligations.Transfers
  intro s
  obtain ⟨n, htxs⟩ := exec_next_of_runImplied (exec_txs_eq s) rfl rfl
  exact ⟨transfer_register (exec_tax_eq s) rfl rfl rfl, transfer_register (exec_tay_eq s) rfl rfl rfl,
    transfer_register (exec_txa_eq s) rfl rfl rfl, transfer_register (exec_tya_eq s) rfl rfl rfl,
    transfer_register (exec_tsx_eq s) rfl rfl rfl, ⟨_, htxs, rfl, memoryKept_of rfl rfl⟩⟩

end Sys2Proof.Proofs
end

section
/-! PROOFS. The flag instructions as one operation (R300 to R306), and NOP and XXX as the operation that does nothing
(R307 to R309). -/

namespace Sys2Proof.Machine

/-- What a flag instruction does. -/
def writeFlag (f : Flag) (v : Bool) (s : State) : State := { s with p := putFlag s.p f v }

theorem exec_clc_eq (s : State) : exec .clc s = runImplied .clc (writeFlag .c false) s := rfl

theorem exec_cld_eq (s : State) : exec .cld s = runImplied .cld (writeFlag .d false) s := rfl

theorem exec_cli_eq (s : State) : exec .cli s = runImplied .cli (writeFlag .i false) s := rfl

theorem exec_clv_eq (s : State) : exec .clv s = runImplied .clv (writeFlag .v false) s := rfl

theorem exec_sec_eq (s : State) : exec .sec s = runImplied .sec (writeFlag .c true) s := rfl

theorem exec_sed_eq (s : State) : exec .sed s = runImplied .sed (writeFlag .d true) s := rfl

theorem exec_sei_eq (s : State) : exec .sei s = runImplied .sei (writeFlag .i true) s := rfl

/-- Beside what every Implied instruction leaves, a flag instruction writes its one flag. -/
theorem flag_written {i : Instr} {f : Flag} {v : Bool} {s : State} (hexec : exec i s = runImplied i (writeFlag f v) s)
    (hw : i.wf = true) (hmode : i.mode = .imp) :
    ∃ t, exec i s = .next t ∧ t = { impliedDone i t.cyc s with p := t.p } ∧ OneFlagWritten f v s.p t.p ∧
      MemoryKept s t := by
  obtain ⟨n, hnext⟩ := exec_next_of_runImplied hexec hw hmode
  exact ⟨_, hnext, rfl, oneFlagWritten_putFlag f v s.p, memoryKept_of rfl rfl⟩

/-- The signal that some NOP bytes return earns nothing, for their mode never crosses a page (R308). -/
theorem exec_nop_eq (b : Byte) (s : State) : exec (.nop b) s = runImplied (.nop b) id s := rfl

theorem exec_xxx_eq (b : Byte) (s : State) : exec (.xxx b) s = runImplied (.xxx b) id s := rfl

/-- An Implied instruction that does nothing leaves what every such instruction leaves. -/
theorem implied_only {i : Instr} {s : State} (hexec : exec i s = runImplied i id s) (hmode : i.mode = .imp)
    (hw : i.wf = true) : ∃ t, exec i s = .next t ∧ t = impliedDone i t.cyc s ∧ MemoryKept s t := by
  obtain ⟨n, hnext⟩ := exec_next_of_runImplied hexec hw hmode
  exact ⟨_, hnext, rfl, memoryKept_of rfl rfl⟩

end Sys2Proof.Machine
end

section
/-! PROOFS. The obligations of the flag instructions' and the NOPs' family (48_flags_nop_illegal.md). -/

namespace Sys2Proof.Proofs

open Sys2Proof Sys2Proof.Machine

/-- Settles O49: the seven are one write of a flag. -/
theorem flagInstructions : Obligations.FlagInstructions := by
  unfold Obligations.FlagInstructions
  intro s
  exact ⟨flag_written (exec_clc_eq s) rfl rfl, flag_written (exec_cld_eq s) rfl rfl, flag_written (exec_cli_eq s) rfl rfl,
    flag_written (exec_clv_eq s) rfl rfl, flag_written (exec_sec_eq s) rfl rfl, flag_written (exec_sed_eq s) rfl rfl,
    flag_written (exec_sei_eq s) rfl rfl⟩

/-- Settles O50: both are Implied instructions that do nothing. -/
theorem nopAndXxxHaveNoEffect : Obligations.NopAndXxxHaveNoEffect := by
  unfold Obligations.NopAndXxxHaveNoEffect
  intro b s
  exact ⟨implied_only (exec_nop_eq b s) rfl, implied_only (exec_xxx_eq b s) rfl⟩

end Sys2Proof.Proofs
end

section
/-! PROOFS. The steps of the host's calls other than ticks (R335), the irq and nmi entries (R325 to R327) as one update of the
state, and what RTI makes of the frame that an entry pushed (R332). -/

namespace Sys2Proof.Machine

/-- A step takes the first listed call off the list and performs it. -/
theorem step_of_call {s : State} {call : HostCall} {rest : List HostCall} (h : s.host = call :: rest) :
    step s = hostCall call { s with host := rest } := by
  unfold step nextCall
  rw [h]
  rfl

/-- A masked irq does nothing (R326). -/
theorem irq_of_masked {s : State} (h : getFlag s.p .i = true) : irq s = s := if_pos h

theorem irq_of_unmasked {s : State} (h : getFlag s.p .i = false) : irq s = interruptEntry irqVector 7 s :=
  if_neg (by simp [h])

theorem entryStatus_eq (p : Byte) : entryStatus p = (p &&& 0xEF#8) ||| 0x20#8 := rfl

/-- An irq or nmi entry: the frame is pushed, P has B cleared, U and I set, PC is the word at the vector (R325). -/
theorem interruptEntry_eq {vector : Addr} (h : 0x8000#16 ≤ vector) (h' : vector < 0xFFFF#16) (n : Nat) (s : State) :
    interruptEntry vector n s = { s with
      sp := s.sp - 3
      p := (s.p &&& 0xEF#8) ||| 0x24#8
      pc := vectorWord s vector
      cyc := n
      ram := (push ((s.p &&& 0xEF#8) ||| 0x20#8) (push s.pc.low (push s.pc.high s))).ram } := by
  have hsp : s.sp - 1 - 1 - 1 = s.sp - 3 := by bv_omega
  have hp : putFlag (entryStatus s.p) .i true = (s.p &&& 0xEF#8) ||| 0x24#8 := BitVec.or_assoc ..
  unfold interruptEntry
  rw [takeException_eq _ _ _ h h', hp, entryStatus_eq, push_eq, push_eq, push_eq]
  simp only [hsp]

/-- What an irq or nmi entry changes, and the frame it pushes. -/
theorem interruptEntry_spec {vector : Addr} (h : 0x8000#16 ≤ vector) (h' : vector < 0xFFFF#16) (n : Nat) {s : State}
    (hwf : s.ram.wf = true) :
    interruptEntry vector n s = { s with
      sp := s.sp - 3
      p := (s.p &&& 0xEF#8) ||| 0x24#8
      pc := vectorWord s vector
      cyc := n
      ram := (interruptEntry vector n s).ram } ∧
    PushedThree s.pc.high s.pc.low ((s.p &&& 0xEF#8) ||| 0x20#8) s (interruptEntry vector n s) := by
  rw [interruptEntry_eq h h']
  exact ⟨rfl, pushedThree_of hwf rfl rfl⟩

/-- An RTI that finds SP and the three pushed bytes as an entry left them goes to the pushed address, restores SP, and takes the
status from the pushed byte (R268, R332). -/
theorem rti_of_frame {s e u : State} {ret : Addr} {status : Byte} (hpushed : PushedThree ret.high ret.low status s e)
    (hesp : e.sp = s.sp - 3) (husp : u.sp = e.sp) (hkept : StackedBytesKept 3 e u) :
    ∃ t, exec .rti u = .next t ∧ t.pc = ret ∧ t.sp = s.sp ∧ t.p = (status &&& 0xEF#8) ||| 0x20#8 ∧
      t.a = u.a ∧ t.x = u.x ∧ t.y = u.y ∧ t.ram = u.ram := by
  obtain ⟨hhigh, hlow, hstatus, -⟩ := hpushed
  have hsp1 : e.sp + 1 = s.sp - 2 := by rw [hesp]; bv_omega
  have hsp2 : e.sp + 2 = s.sp - 1 := by rw [hesp]; bv_omega
  have hsp3 : e.sp + 3 = s.sp := by rw [hesp]; bv_omega
  have hstatus' : stackByte u (u.sp + 1) = status := by
    rw [husp, ← hstatus, ← hsp1]
    exact hkept 1 (by decide) (by decide)
  have hlow' : stackByte u (u.sp + 2) = ret.low := by
    rw [husp, ← hlow, ← hsp2]
    exact hkept 2 (by decide) (by decide)
  have hhigh' : stackByte u (u.sp + 3) = ret.high := by
    rw [husp, ← hhigh, ← hsp3]
    exact hkept 3 (by decide) (by decide)
  obtain ⟨n, hnext⟩ := exec_next_of_runImplied (exec_rti_eq u) rfl rfl
  rw [returnFromInterrupt_eq] at hnext
  refine ⟨_, hnext, ?_, ?_, ?_, rfl, rfl, rfl, rfl⟩
  · exact (congrArg₂ Addr.ofBytes hlow' hhigh').trans (Addr.ofBytes_low_high ret)
  · exact (congrArg (· + 3) husp).trans hsp3
  · exact congrArg (fun b => (b &&& 0xEF#8) ||| 0x20#8) hstatus'

/-- Of either pushed status RTI makes the status at the event, with B cleared and U set (D11). -/
theorem pulled_entryStatus (p : Byte) : (((p &&& 0xEF#8) ||| 0x20#8) &&& 0xEF#8) ||| 0x20#8 = (p &&& 0xEF#8) ||| 0x20#8 :=
  forall_byte (P := fun p => (((p &&& 0xEF#8) ||| 0x20#8) &&& 0xEF#8) ||| 0x20#8 = (p &&& 0xEF#8) ||| 0x20#8)
    (by decide +kernel) p

theorem pulled_breakStatus (p : Byte) : ((p ||| 0x30#8) &&& 0xEF#8) ||| 0x20#8 = (p &&& 0xEF#8) ||| 0x20#8 :=
  forall_byte (P := fun p => ((p ||| 0x30#8) &&& 0xEF#8) ||| 0x20#8 = (p &&& 0xEF#8) ||| 0x20#8) (by decide +kernel) p

/-- RTI undoes an irq or nmi entry. -/
theorem rti_undoes_interruptEntry {vector : Addr} (h : 0x8000#16 ≤ vector) (h' : vector < 0xFFFF#16) (n : Nat) {s u : State}
    (hwf : s.ram.wf = true) (husp : u.sp = (interruptEntry vector n s).sp)
    (hkept : StackedBytesKept 3 (interruptEntry vector n s) u) :
    ∃ t, exec .rti u = .next t ∧ t.pc = s.pc ∧ t.sp = s.sp ∧ t.p = (s.p &&& 0xEF#8) ||| 0x20#8 ∧
      t.a = u.a ∧ t.x = u.x ∧ t.y = u.y ∧ t.ram = u.ram := by
  obtain ⟨hentry, hpushed⟩ := interruptEntry_spec h h' n hwf
  have hrti := rti_of_frame hpushed (congrArg State.sp hentry) husp hkept
  rwa [pulled_entryStatus] at hrti

/-! What the irq's and BRK's stacked status show of the Break bit (R374). -/

theorem getLsbD_entryStatus_four (p : Byte) : ((p &&& 0xEF#8) ||| 0x20#8).getLsbD 4 = false := by simp

theorem getLsbD_breakStatus_four (p : Byte) : (p ||| 0x30#8).getLsbD 4 = true := by simp

end Sys2Proof.Machine
end

section
/-! PROOFS. What the peripheral's accesses to the cartridge leave (R91, R345): the record grows, and CHR bytes change only where a
write is claimed. -/

namespace Sys2Proof.Machine

/-- The accesses are recorded on top of what the peripheral had seen. -/
theorem runAccesses_log (accesses : List CartAccess) (c : Cartridge) (log : List PeriphEvent) :
    ∃ new, (runAccesses accesses (c, log)).2 = new ++ log := by
  induction accesses generalizing c log with
  | nil => exact ⟨[], rfl⟩
  | cons access rest ih =>
    cases access with
    | read addr =>
      obtain ⟨new, hnew⟩ := ih c (.cartRead addr (c.readPpu addr) :: log)
      exact ⟨new ++ [_], hnew.trans (List.append_cons ..)⟩
    | write addr v =>
      obtain ⟨new, hnew⟩ := ih (c.writePpu addr v) (.cartWrite addr v (c.claimsWritePpu addr) :: log)
      exact ⟨new ++ [_], hnew.trans (List.append_cons ..)⟩

/-- A cartridge that claims no write keeps its CHR bytes. -/
theorem runAccesses_of_unclaimed {c : Cartridge} (h : ∀ addr, c.claimsWritePpu addr = false) (accesses : List CartAccess)
    (log : List PeriphEvent) : (runAccesses accesses (c, log)).1 = c := by
  induction accesses generalizing log with
  | nil => rfl
  | cons access rest ih =>
    cases access with
    | read addr => exact ih _
    | write addr v =>
      rw [runAccesses, writePpu_of_unclaimed v (h addr)]
      exact ih _

/-- A claimed write of the peripheral side falls on a valid NROM cartridge (R89, R91, R92). -/
theorem nrom_of_claimsWritePpu {c : Cartridge} {addr : Addr} (h : c.claimsWritePpu addr = true) :
    c.valid = true ∧ c.mapperId = 0x00 := by
  rcases c.mapper_cases with ⟨hv, hm, -⟩ | ⟨-, hnone⟩
  · exact ⟨hv, hm⟩
  · simp [Cartridge.claimsWritePpu, hnone] at h

/-- Neither an invalid cartridge nor one with a CHR bank claims a write of the peripheral side (R88, R92). -/
theorem claimsWritePpu_of_no_chrRam {c : Cartridge} (h : c.valid = false ∨ c.header.chrChunks ≠ 0x00) (addr : Addr) :
    c.claimsWritePpu addr = false := by
  rw [Bool.eq_false_iff]
  intro hclaim
  obtain ⟨hv, hm⟩ := nrom_of_claimsWritePpu hclaim
  have hram := ((claimsWritePpu_of_nrom hv hm addr).1 hclaim).2
  simp [hv, hram] at h

/-- A write of the peripheral side reaches no byte above 0x1FFF (R88). -/
theorem writePpu_read_above (c : Cartridge) (addr : Addr) (v : Byte) {k : Nat} (hk : 0x1FFF < k) :
    (c.writePpu addr v).chr.read k = c.chr.read k := by
  cases hclaim : c.claimsWritePpu addr with
  | false => rw [writePpu_of_unclaimed v hclaim]
  | true =>
    obtain ⟨hv, hm⟩ := nrom_of_claimsWritePpu hclaim
    have hlow := ((claimsWritePpu_of_nrom hv hm addr).1 hclaim).1
    rw [writePpu_of_claimed hv hm v hclaim]
    exact Memory.read_write_other (by bv_omega)

theorem runAccesses_read_above (accesses : List CartAccess) (c : Cartridge) (log : List PeriphEvent) {k : Nat}
    (hk : 0x1FFF < k) : (runAccesses accesses (c, log)).1.chr.read k = c.chr.read k := by
  induction accesses generalizing c log with
  | nil => rfl
  | cons access rest ih =>
    cases access with
    | read addr => exact ih c _
    | write addr v => exact (ih (c.writePpu addr v) _).trans (writePpu_read_above c addr v hk)

theorem periphClock_chr (s : State) :
    (periphClock s).cart.chr =
      (runAccesses (Config.periphAccesses s.draws s.periphLog s.cart.chr) (s.cart, .clocked :: s.periphLog)).1.chr := rfl

end Sys2Proof.Machine
end

section
/-! PROOFS. Every step goes on (R321); the ticks up to an instruction boundary, and the one at it, when the host raises no
event. -/

namespace Sys2Proof.Machine

/-- The bytes at PC decode, and the instruction they encode executes (R129, R321). -/
theorem exists_executeNext (s : State) :
    ∃ i t, decode (fetchBytes s).1 = .ok (i, []) ∧ exec i (fetchBytes s).2 = .next t ∧ executeNext s = .next t := by
  obtain ⟨i, hdecode, hw, -⟩ := Proofs.everyFetchDecodes s
  obtain ⟨t, ht⟩ := exists_exec hw (fetchBytes s).2
  refine ⟨i, t, hdecode, ht, ?_⟩
  simp only [executeNext, hdecode, ht]

theorem exists_cpuClock (s : State) : ∃ t, cpuClock s = .next t := by
  by_cases hcyc : s.cyc = 0
  · obtain ⟨-, t, -, -, ht⟩ := exists_executeNext s
    exact ⟨_, (cpuClock_boundary hcyc).trans (congrArg (onNext countDown) ht)⟩
  · exact ⟨_, cpuClock_idle hcyc⟩

theorem exists_systemTick (s : State) : ∃ t, systemTick s = .next t := by
  by_cases hsys : s.sysclk % 3 = 0
  · obtain ⟨t, ht⟩ := exists_cpuClock (periphClock s)
    exact ⟨_, (systemTick_cpu hsys).trans (congrArg (onNext countTick) ht)⟩
  · exact ⟨_, systemTick_idle hsys⟩

theorem exists_hostCall (call : HostCall) (s : State) : ∃ t, hostCall call s = .next t := by
  cases call
  case clock => exact exists_systemTick s
  all_goals exact ⟨_, rfl⟩

/-- The system tick at an instruction boundary: the next instruction, and the two counts (R100, R150). -/
theorem exists_systemTick_at_boundary {s : State} (hsys : s.sysclk % 3 = 0) (hcyc : s.cyc = 0) :
    ∃ i u, decode (fetchBytes (periphClock s)).1 = .ok (i, []) ∧ exec i (fetchBytes (periphClock s)).2 = .next u ∧
      systemTick s = .next { u with cyc := u.cyc - 1, sysclk := s.sysclk + 1 } := by
  obtain ⟨i, u, hdecode, hexec, hnext⟩ := exists_executeNext (periphClock s)
  have hsysclk : u.sysclk = s.sysclk := by
    obtain ⟨-, hsysclk, -⟩ := Proofs.whichInstructionsWriteMemory i _ u hexec
    rw [hsysclk, fetchBytes_state]
    rfl
  refine ⟨i, u, hdecode, hexec, ?_⟩
  rw [systemTick_at_boundary hsys hcyc, hnext, ← hsysclk]
  rfl

/-- With no host event, the system ticks from a CPU tick on, up to the next boundary: CYC counts in every third (R100, R153). -/
theorem run_until_boundary {r : State} (hhost : r.host = []) (hsys : r.sysclk % 3 = 0) {n : Nat} (hn : n ≤ 3 * r.cyc) :
    ∃ t : State, core.run n r = .next t ∧ t.cyc = r.cyc - (n + 2) / 3 ∧ t.sysclk = r.sysclk + n ∧ IdleKept r t := by
  induction n with
  | zero => exact ⟨r, rfl, rfl, rfl, rfl⟩
  | succ n ih =>
    obtain ⟨t, hrun, htcyc, htsys, hkept⟩ := ih (by omega)
    have hthost : t.host = [] := (congrArg State.host hkept).trans hhost
    have hclock : nextCall t = .clock := by rw [nextCall, hthost]; rfl
    have htail : { t with host := t.host.tail } = t := by rw [hthost, List.tail_nil, ← hthost]
    obtain ⟨u, hstep, husys, hucyc, -, -, hkept'⟩ := Proofs.tickThatStartsNoInstruction t hclock (by omega)
    rw [htail] at hkept'
    have hone : core.run 1 t = .next u := by simp only [Host.Core.run, core, hstep]
    refine ⟨u, (run_add_of_next hrun 1).trans hone, ?_, by omega, hkept.trans hkept'⟩
    split at hucyc <;> omega

end Sys2Proof.Machine
end

section
/-! PROOFS. What the launch is made of: loading an image makes a cartridge that meets the invariant (R37, R81 to R83), and a bus
reset loads PC from its vector (R101). -/

namespace Sys2Proof.Machine

theorem Memory.within_ofBytes_take (bytes : List Byte) (size : Nat) : (Memory.ofBytes (bytes.take size)).within size = true :=
  Memory.within_ofBytesAt _ 0 size (by rw [Nat.zero_add]; exact List.length_take_le ..)

/-- After a bus reset PC is the word at the reset vector, which the reset leaves as it was (R324, R101). -/
theorem busReset_pc (s : State) : (busReset s).pc = vectorWord (busReset s) 0xFFFC := by
  rw [busReset, cpuReset_eq]
  rfl

/-- Loading makes a cartridge that meets the invariant: a valid image has mapper id 0 and a PRG bank, and each memory holds as
many bytes as its size (R81 to R83). -/
theorem load_inv (image : List Byte) {chrRamInit : Memory} (hwf : chrRamInit.wf = true)
    (hwithin : chrRamInit.within 8192 = true) : (Cartridge.load image chrRamInit).Inv := by
  obtain ⟨hprg, hchr⟩ := load_memories_canonical image hwf
  have hvalid (hv : (Cartridge.load image chrRamInit).valid = true) :
      (Header.ofImage image).mapperId = 0x00 ∧ (Header.ofImage image).prgChunks.toNat ≠ 0 := by
    obtain ⟨-, -, hmapper, hbank⟩ := ((Header.ofImage image).loadsValid_iff image.length).1 hv
    exact ⟨hmapper, hbank⟩
  have hchrWithin : (Cartridge.load image chrRamInit).chr.within (Header.ofImage image).chrSize = true := by
    by_cases hbank : (Header.ofImage image).chrChunks.toNat = 0
    · simpa only [Cartridge.load, Header.chrSize, if_pos hbank] using hwithin
    · simpa only [Cartridge.load, Header.chrSize, if_neg hbank] using Memory.within_ofBytes_take _ _
  exact
    { mapperImplemented := fun hv => (hvalid hv).1
      hasPrgBank := fun hv hzero => (hvalid hv).2 (congrArg BitVec.toNat hzero)
      prgCanonical := hprg
      prgWithin := Memory.within_ofBytes_take _ _
      chrCanonical := hchr
      chrWithin := hchrWithin }

end Sys2Proof.Machine
end

section
/-! PROOFS. The scan of `disassemble` (R348): its keys and what its reads leave. -/

namespace Sys2Proof.Machine

/-- The encoded length of the instruction at an address, a key of `disassemble` (R124, R348). -/
def lengthAt (s : State) (k : Nat) : Nat := (descriptor (busValue (BitVec.ofNat 16 k) s)).mode.length

theorem lengthAt_pos (s : State) (k : Nat) : 0 < lengthAt s k := by
  have := (descriptor (busValue (BitVec.ofNat 16 k) s)).mode.length_cases
  unfold lengthAt
  omega

section

variable {fuel addr stop : Nat} {s : State}

theorem disassembleFrom_of_le (h : addr ≤ stop) :
    disassembleFrom (fuel + 1) addr stop s =
      (addr :: (disassembleFrom fuel (addr + lengthAt s addr) stop (afterRead (BitVec.ofNat 16 addr) s)).1,
        (disassembleFrom fuel (addr + lengthAt s addr) stop (afterRead (BitVec.ofNat 16 addr) s)).2) := by
  rw [disassembleFrom, if_pos h]
  rfl

theorem disassembleFrom_of_lt (h : stop < addr) : disassembleFrom fuel addr stop s = ([], s) := by
  cases fuel with
  | zero => rfl
  | succ fuel => rw [disassembleFrom, if_neg (Nat.not_le.mpr h)]

end

/-- Every key lies between where the scan begins and where it stops. -/
theorem disassembleFrom_bounds {fuel addr stop k : Nat} {s : State} (hk : k ∈ (disassembleFrom fuel addr stop s).1) :
    addr ≤ k ∧ k ≤ stop := by
  induction fuel generalizing addr s with
  | zero => cases hk
  | succ fuel ih =>
    by_cases h : addr ≤ stop
    · rw [disassembleFrom_of_le h] at hk
      rcases List.mem_cons.1 hk with rfl | hk
      · exact ⟨Nat.le_refl k, h⟩
      · exact ⟨Nat.le_of_add_right_le (ih hk).1, (ih hk).2⟩
    · rw [disassembleFrom_of_lt (Nat.not_le.mp h)] at hk
      cases hk

/-- The keys rise strictly, for no instruction has length 0. -/
theorem disassembleFrom_pairwise (fuel addr stop : Nat) (s : State) :
    (disassembleFrom fuel addr stop s).1.Pairwise (· < ·) := by
  induction fuel generalizing addr s with
  | zero => exact .nil
  | succ fuel ih =>
    by_cases h : addr ≤ stop
    · rw [disassembleFrom_of_le h]
      refine .cons (fun k hk => ?_) (ih _ _)
      exact Nat.lt_of_lt_of_le (Nat.lt_add_of_pos_right (lengthAt_pos s addr)) (disassembleFrom_bounds hk).1
    · rw [disassembleFrom_of_lt (Nat.not_le.mp h)]
      exact .nil

/-- The scan writes the oracle's two fields and nothing else (R72, R348). -/
theorem disassembleFrom_state (fuel addr stop : Nat) (s : State) :
    (disassembleFrom fuel addr stop s).2 = { s with
      draws := (disassembleFrom fuel addr stop s).2.draws
      periphLog := (disassembleFrom fuel addr stop s).2.periphLog } := by
  induction fuel generalizing addr s with
  | zero => rfl
  | succ fuel ih =>
    by_cases h : addr ≤ stop
    · rw [disassembleFrom_of_le h]
      exact ih _ _
    · rw [disassembleFrom_of_lt (Nat.not_le.mp h)]

/-- With fuel for every address up to `stop`, the first key is where the scan begins, unless that is past `stop`. -/
theorem disassembleFrom_head? {fuel addr stop : Nat} (hfuel : stop + 1 - addr ≤ fuel) (s : State) :
    (disassembleFrom fuel addr stop s).1.head? = if addr ≤ stop then some addr else none := by
  split
  · next h =>
    obtain ⟨n, rfl⟩ : ∃ n, fuel = n + 1 := Nat.exists_eq_succ_of_ne_zero (by omega)
    rw [disassembleFrom_of_le h]
    rfl
  · next h => rw [disassembleFrom_of_lt (Nat.not_le.mp h)]; rfl

/-- Each key lies above the one before it by its length, and the last one's length reaches past `stop`. -/
def SteppedBy (len : Nat → Nat) (stop : Nat) (keys : List Nat) : Prop :=
  (∀ n k next, keys[n]? = some k → keys[n + 1]? = some next → next = k + len k) ∧
  ∀ k, keys.getLast? = some k → stop < k + len k

theorem steppedBy_nil (len : Nat → Nat) (stop : Nat) : SteppedBy len stop [] := ⟨by simp, by simp⟩

/-- A key in front of such keys, which begin right after its instruction, unless that is past `stop`. -/
theorem steppedBy_cons {len : Nat → Nat} {stop addr : Nat} {keys : List Nat} (hkeys : SteppedBy len stop keys)
    (hhead : keys.head? = if addr + len addr ≤ stop then some (addr + len addr) else none) :
    SteppedBy len stop (addr :: keys) := by
  obtain ⟨hdiff, hlast⟩ := hkeys
  refine ⟨fun n k next hk hnext => ?_, fun k hk => ?_⟩
  · cases n with
    | zero =>
      cases hk
      rw [List.head?_eq_getElem?, show keys[0]? = some next from hnext] at hhead
      split at hhead <;> cases hhead
      rfl
    | succ n => exact hdiff n k next hk hnext
  · cases keys with
    | nil =>
      cases hk
      split at hhead
      · cases hhead
      · next hpast => exact Nat.not_le.mp hpast
    | cons first rest => exact hlast k (List.getLast?_cons_cons.symm.trans hk)

/-- With that fuel, and no key in the peripheral's window, the keys differ by the encoded lengths, the last instruction reaches
past `stop`, and the reads leave no trace. -/
theorem disassembleFrom_of_not_inWindow {fuel addr stop : Nat} {s : State} (hfuel : stop + 1 - addr ≤ fuel)
    (hwindow : ∀ k ∈ (disassembleFrom fuel addr stop s).1, inWindow (BitVec.ofNat 16 k) = false) :
    SteppedBy (lengthAt s) stop (disassembleFrom fuel addr stop s).1 ∧ (disassembleFrom fuel addr stop s).2 = s := by
  induction fuel generalizing addr with
  | zero => exact ⟨steppedBy_nil _ _, rfl⟩
  | succ fuel ih =>
    by_cases h : addr ≤ stop
    · rw [disassembleFrom_of_le h] at hwindow ⊢
      rw [afterRead_of_not_inWindow (hwindow addr List.mem_cons_self)] at hwindow ⊢
      have hfuel' : stop + 1 - (addr + lengthAt s addr) ≤ fuel := by
        have := lengthAt_pos s addr
        omega
      obtain ⟨hkeys, hstate⟩ := ih hfuel' fun k hk => hwindow k (List.mem_cons_of_mem _ hk)
      exact ⟨steppedBy_cons hkeys (disassembleFrom_head? hfuel' s), hstate⟩
    · rw [disassembleFrom_of_lt (Nat.not_le.mp h)]
      exact ⟨steppedBy_nil _ _, rfl⟩

end Sys2Proof.Machine
end

section
/-! PROOFS. The obligations of the exceptions' family (60_exceptions.md). -/

namespace Sys2Proof.Proofs

open Sys2Proof Sys2Proof.Machine

/-- Settles O7: a step is one host call, and only a system tick could stop, at an instruction that does not decode. -/
theorem noStepStops : Obligations.NoStepStops := by
  unfold Obligations.NoStepStops
  intro s
  exact exists_hostCall (nextCall s) { s with host := s.host.tail }

/-- Settles O20: only a claimed write changes CHR, and it falls on CHR-RAM, below 0x2000. -/
theorem peripheralTickTouchesOnlyCharacterRam : Obligations.PeripheralTickTouchesOnlyCharacterRam := by
  unfold Obligations.PeripheralTickTouchesOnlyCharacterRam
  intro s
  obtain ⟨log, hlog⟩ :=
    runAccesses_log (Config.periphAccesses s.draws s.periphLog s.cart.chr) s.cart (.clocked :: s.periphLog)
  refine ⟨(periphClock s).cart.chr, log, ?_, fun hrom => ?_, fun k hk => runAccesses_read_above _ _ _ hk⟩
  · rw [← hlog]
    rfl
  · rw [periphClock_chr, runAccesses_of_unclaimed (claimsWritePpu_of_no_chrRam hrom)]

/-- Settles O23: the irq is not masked, so it is an interrupt entry. -/
theorem irqEntry : Obligations.IrqEntry := by
  unfold Obligations.IrqEntry
  intro s rest hhost hunmasked hwf
  refine ⟨_, step_of_call hhost, ?_⟩
  rw [irq_of_unmasked (s := { s with host := rest }) hunmasked]
  exact interruptEntry_spec (s := { s with host := rest }) (by decide) (by decide) 7 hwf

/-- Settles O24: an nmi is an interrupt entry. -/
theorem nmiEntry : Obligations.NmiEntry := by
  unfold Obligations.NmiEntry
  intro s rest hhost hwf
  exact ⟨_, step_of_call hhost, interruptEntry_spec (s := { s with host := rest }) (by decide) (by decide) 8 hwf⟩

/-- Settles O25: the vector is no byte of the peripheral, so reading it leaves no trace. -/
theorem resetWritesEveryRegister : Obligations.ResetWritesEveryRegister := by
  unfold Obligations.ResetWritesEveryRegister
  intro s rest after
  have hreset : cpuReset { s with host := rest } = after := cpuReset_eq _
  refine ⟨fun hhost => ?_, fun hhost => ?_⟩ <;> rw [step_of_call hhost]
  · exact congrArg Host.Outcome.next hreset
  · exact congrArg (fun t => Host.Outcome.next { t with sysclk := 0 }) hreset

/-- Settles O28: each entry pushes the address and the status that RTI pulls. -/
theorem rtiUndoesAnEntry : Obligations.RtiUndoesAnEntry := by
  unfold Obligations.RtiUndoesAnEntry
  intro s u hwf
  refine ⟨rti_undoes_interruptEntry (by decide) (by decide) 7 hwf, rti_undoes_interruptEntry (by decide) (by decide) 8 hwf, ?_⟩
  intro e hbrk husp hkept
  obtain ⟨e', hnext, hentry, hpushed⟩ := brkEntry s hwf
  cases hbrk.symm.trans hnext
  have hrti := rti_of_frame hpushed (congrArg State.sp hentry) husp hkept
  rwa [pulled_breakStatus] at hrti

/-- Settles O60: the fuel of the scan is one for each address from `start` to `stop`. -/
theorem disassembleKeys : Obligations.DisassembleKeys := by
  unfold Obligations.DisassembleKeys
  intro start stop s keys
  refine ⟨disassembleFrom_head? (Nat.le_refl _) s, disassembleFrom_pairwise _ _ _ s, fun k hk => disassembleFrom_bounds hk,
    fun hwindow => ?_, disassembleFrom_state _ _ _ s⟩
  obtain ⟨⟨hdiff, hlast⟩, hstate⟩ := disassembleFrom_of_not_inWindow (Nat.le_refl _) hwindow
  exact ⟨hdiff, hlast, hstate⟩

end Sys2Proof.Proofs
end

section
/-! PROOFS. The record of the peripheral's window after an instruction with an operand in memory (R67, R152, R378). -/

namespace Sys2Proof.Machine

/-- A read is recorded, with its answer, exactly in the window. -/
theorem afterRead_periphLog (addr : Addr) (s : State) :
    (afterRead addr s).periphLog =
      if inWindow addr then .cpuRead (addr.setWidth 3) (Config.periphAnswer s.draws s.periphLog (addr.setWidth 3)) :: s.periphLog
      else s.periphLog := by
  cases hw : inWindow addr with
  | true =>
    have hperiph : readResponder s.cart addr = .periph (addr.setWidth 3) := inWindow_periph hw
    rw [afterRead_of_periph hperiph, busValue_of_periph hperiph, if_pos rfl]
  | false => rw [afterRead_of_not_inWindow hw, if_neg (by decide)]

/-- The instructions that have an operand in memory have no indirect form, whose pointer may lie in the window itself. -/
theorem mode_of_memory_operand {i : Instr} {o : Operand} (hw : i.wf = true) (hmode : i.mode = o.mode)
    (hind : .ind ∉ i.op.modes) (hacc : o ≠ .acc) (himm : ∀ v, o ≠ .imm v) : o.mode ∉ [.acc, .imm, .ind] := by
  have hmodes : o.mode ∈ i.op.modes := by
    simp only [Instr.wf, Bool.and_eq_true, List.contains_iff_mem] at hw
    exact hmode ▸ hw.1
  cases o
  case acc => exact absurd rfl hacc
  case imm v => exact absurd rfl (himm v)
  case ind => exact absurd hmodes hind
  all_goals simp [Operand.mode]

section

variable {i : Instr} {o : Operand} {s t : State} (hmode : i.mode = o.mode) (hind : .ind ∉ i.op.modes) (hacc : o ≠ .acc)
  (himm : ∀ v, o ≠ .imm v)

include hmode hind hacc himm

/-- A reading instruction whose operation touches no record leaves the record of its one data read. -/
theorem runRead_periphLog {xb : Bool} {op : State → State} (h : runRead i o xb op s = .next t)
    (hop : ∀ u, (op u).periphLog = u.periphLog) :
    t.periphLog = (afterRead (operandAddr i o s) s).periphLog := by
  have hmemory := mode_of_memory_operand (runInstr_inv h).1 hmode hind hacc himm
  obtain ⟨n, -, rfl⟩ := runRead_inv h
  obtain ⟨-, -, -, hlog⟩ := operand_read_at (i := i) (s := s) hmemory rfl
  rw [loadCyc_periphLog, hop, hlog]

/-- A read-modify-write instruction of memory leaves the record of its one data read, and on top that of its one write. -/
theorem runModify_periphLog {f g : Byte → Byte → Byte} (h : runModify i o f g s = .next t) :
    ∃ v, t.periphLog =
      if inWindow (operandAddr i o s) then
        .cpuWrite ((operandAddr i o s).setWidth 3) v :: (afterRead (operandAddr i o s) s).periphLog
      else (afterRead (operandAddr i o s) s).periphLog := by
  have hw := (runInstr_inv h).1
  obtain ⟨t', hnext, -, -, -, -, hlog⟩ := runModify_memory hw hacc f g s
  cases h.symm.trans hnext
  obtain ⟨-, -, -, hread⟩ := operand_read_at (i := i) (s := s) (mode_of_memory_operand hw hmode hind hacc himm) rfl
  rw [hread] at hlog
  exact ⟨_, hlog⟩

/-- A store leaves the record of its one write, and draws no value. -/
theorem runStore_periphLog {v : State → Byte} (h : runStore i o v s = .next t) :
    ∃ b, t.draws = s.draws ∧ t.periphLog =
      if inWindow (operandAddr i o s) then .cpuWrite ((operandAddr i o s).setWidth 3) b :: s.periphLog else s.periphLog := by
  have hmemory := mode_of_memory_operand (runInstr_inv h).1 hmode hind hacc himm
  obtain ⟨n, -, rfl⟩ := runStore_inv h
  have haddress : o.mode ∉ [.acc, .ind] := by simp_all
  rw [resolve_entered_eq haddress]
  have hstored : StoredAt (operandAddr i o s) (v (addressDone i o s.cyc s)) s.periphLog s
      (busWrite (operandAddr i o s) (v (addressDone i o s.cyc s)) (addressDone i o s.cyc s)) :=
    storedAt_of rfl rfl rfl rfl rfl
  obtain ⟨-, -, hlog⟩ := hstored
  exact ⟨_, rfl, hlog⟩

end

end Sys2Proof.Machine
end

section
/-! PROOFS. The obligations of the reset's and the hazards' family (70_reset_and_hazards.md). -/

namespace Sys2Proof.Proofs

open Sys2Proof Sys2Proof.Machine

/-- Settles O11: the launch is a bus reset, with the cartridge that loading makes. -/
theorem launchState : Obligations.LaunchState := by
  unfold Obligations.LaunchState
  intro image ramInit chrRamInit _ hram hramWithin hchr hchrWithin t
  exact ⟨rfl, rfl, rfl, rfl, rfl, rfl, rfl, rfl, rfl, rfl, rfl, rfl, rfl, busReset_pc _,
    busReset_inv ⟨hram, hramWithin⟩ (load_inv image hchr hchrWithin)⟩

/-- Settles O12: the reset leaves CYC 8 and SYSCLK 0, so the boundary is 24 ticks off. -/
theorem firstInstructionAfterReset : Obligations.FirstInstructionAfterReset := by
  unfold Obligations.FirstInstructionAfterReset
  intro s
  have hticks {n : Nat} (hn : n ≤ 24) := run_until_boundary (r := busReset { s with host := [] }) rfl rfl hn
  have hrun (n : Nat) : core.run (n + 1) { s with host := [.busReset] } = core.run n (busReset { s with host := [] }) := rfl
  obtain ⟨t, ht, htcyc, (htsys : t.sysclk = 24), hkept⟩ := hticks (Nat.le_refl 24)
  refine ⟨t, (hrun 24).trans ht, htcyc, htsys, hkept, ?_, fun k _ hk => ?_⟩
  · obtain ⟨i, u, hdecode, hexec, htick⟩ := exists_systemTick_at_boundary (s := t) (by rw [htsys]) htcyc
    rw [htsys, ← step_of_no_event (congrArg State.host hkept)] at htick
    exact ⟨i, u, hdecode, hexec, htick⟩
  · obtain ⟨u, hu, (hucyc : u.cyc = 8 - (k + 2) / 3), -, -⟩ := hticks (n := k) (by omega)
    exact ⟨u, (hrun k).trans hu, by omega⟩

/-- Settles O22: the irq is taken off the list, and does nothing. -/
theorem maskedIrqIsLost : Obligations.MaskedIrqIsLost := by
  unfold Obligations.MaskedIrqIsLost
  intro s rest hhost hmasked
  rw [step_of_call hhost]
  exact congrArg Host.Outcome.next (irq_of_masked (s := { s with host := rest }) hmasked)

/-- Settles O29: both entries push three bytes and load one vector; they differ in the third byte. -/
theorem stackedBreakBitTellsBrkFromIrq : Obligations.StackedBreakBitTellsBrkFromIrq := by
  unfold Obligations.StackedBreakBitTellsBrkFromIrq
  intro s hwf hunmasked
  obtain ⟨t, hnext, hbrk, -, -, hbrkStatus, -⟩ := brkEntry s hwf
  obtain ⟨hirq, -, -, hirqStatus, -⟩ := interruptEntry_spec (vector := irqVector) (by decide) (by decide) 7 hwf
  rw [← irq_of_unmasked hunmasked] at hirq hirqStatus
  have hsp : s.sp - 3 + 1 = s.sp - 2 := by bv_omega
  have hbrkSp : t.sp + 1 = s.sp - 2 := (congrArg (·.sp + 1) hbrk).trans hsp
  have hirqSp : (irq s).sp + 1 = s.sp - 2 := (congrArg (·.sp + 1) hirq).trans hsp
  refine ⟨t, hnext, ?_, ?_, ?_, ?_, ?_, ?_⟩
  · exact (congrArg State.pc hbrk).trans (congrArg State.pc hirq).symm
  · exact (congrArg State.sp hbrk).trans (congrArg State.sp hirq).symm
  · rw [hbrkSp, hbrkStatus]
    exact getLsbD_breakStatus_four s.p
  · rw [hirqSp, hirqStatus]
    exact getLsbD_entryStatus_four s.p
  · rw [hbrk]
    simp [getFlag, Flag.index]
  · rw [hirq]
    simp [getFlag, Flag.index]

/-- Settles O59: a resolver makes no access to the window, so the record is that of the one data read, and of the one write. -/
theorem accessesToThePeripheralWindow : Obligations.AccessesToThePeripheralWindow := by
  unfold Obligations.AccessesToThePeripheralWindow
  intro i o s t h hacc himm reg answer
  have hread := afterRead_periphLog (operandAddr i o s) s
  refine ⟨fun hi => ?_, fun hi => ?_, fun hi => ?_⟩ <;> simp only [List.mem_cons, List.not_mem_nil, or_false] at hi
  · have hlog : t.periphLog = (afterRead (operandAddr i o s) s).periphLog := by
      rcases hi with rfl | rfl | rfl | rfl | rfl | rfl | rfl | rfl | rfl | rfl | rfl | rfl
      all_goals
        simp only [exec] at h
        exact runRead_periphLog rfl (by simp [Instr.op, Op.modes]) hacc himm h fun _ => rfl
    exact hlog.trans hread
  · obtain ⟨v, hlog⟩ : ∃ v, t.periphLog =
        if inWindow (operandAddr i o s) then .cpuWrite reg v :: (afterRead (operandAddr i o s) s).periphLog
        else (afterRead (operandAddr i o s) s).periphLog := by
      rcases hi with rfl | rfl | rfl | rfl | rfl | rfl
      all_goals
        simp only [exec] at h
        exact runModify_periphLog rfl (by simp [Instr.op, Op.modes]) hacc himm h
    refine ⟨v, hlog.trans ?_⟩
    rw [hread]
    split <;> rfl
  · rcases hi with rfl | rfl | rfl
    all_goals
      simp only [exec] at h
      exact runStore_periphLog rfl (by simp [Instr.op, Op.modes]) hacc himm h

end Sys2Proof.Proofs
end

section
/-! PROOFS. BIT as one operation on P (R203). -/

namespace Sys2Proof.Machine

/-- What BIT does with the operand in M. -/
def testBits (s : State) : State := { s with p := bitFlags s.p s.a s.m }

theorem exec_bit_eq (o : Operand) (s : State) : exec (.bit o) s = runRead (.bit o) o false testBits s := rfl

/-- The flags after BIT's flag computation (R203). -/
theorem getFlag_bitFlags (p a m : Byte) :
    getFlag (bitFlags p a m) .z = decide (a &&& m = 0) ∧ getFlag (bitFlags p a m) .n = m.getLsbD 7 ∧
      getFlag (bitFlags p a m) .v = m.getLsbD 6 ∧ FlagsKept p (bitFlags p a m) [.z, .n, .v] := by
  refine ⟨by simp [bitFlags, getFlag_putFlag], by simp [bitFlags, getFlag_putFlag], getFlag_putFlag_same _ _ _,
    fun f hf => flagsKept_bitFlags p a m f ?_⟩
  simpa [and_comm] using hf

end Sys2Proof.Machine
end

section
/-! PROOFS. The obligation of BIT (42_logical.md). -/

namespace Sys2Proof.Proofs

open Sys2Proof Sys2Proof.Machine

/-- Settles O34: BIT writes P alone, by its flag computation. -/
theorem bitTest : Obligations.BitTest := by
  unfold Obligations.BitTest
  intro o s hw
  have hp : (testBits (fetched (.bit o) o s)).p = bitFlags s.p s.a (operandByte (.bit o) o s) := by simp [testBits]
  obtain ⟨hz, hn, hv, hkept⟩ := getFlag_bitFlags s.p s.a (operandByte (.bit o) o s)
  refine ⟨_, (exec_bit_eq o s).trans (runRead_next hw o false testBits s), by rw [operandDone_eq]; rfl, ?_⟩
  rw [loadCyc_p, hp]
  exact ⟨hz, hn, hv, hkept, memoryKept_of (fetched_ram _ o s) (fetched_cart _ o s)⟩

end Sys2Proof.Proofs
end
